-- ==== Sys2Proof/Word.lean ====
section
/-! DEFINITION. The word types of the frame codec block: the byte, the 16-bit length, the 48-bit header
word and the six bytes of a frame header (00_scope.md R6, R7; 30_encoding.md R110, R111). -/

namespace Sys2Proof

/-- One byte, the addressable unit of both streams and the width of a bus address (R6 `ADDR_W`, R81). -/
abbrev Byte := BitVec 8

/-- The 16-bit unsigned `length` field (R6 `LEN_W`). -/
abbrev Len := BitVec 16

/-- The 48-bit header word `H` of R7 and R111. -/
abbrev HeaderWord := BitVec 48

/-- A byte sequence: message, fragment, bus packet, run of stream bytes (R7). -/
abbrev Bytes := List Byte

/-- The bytes of one frame header in wire order: exactly `HDR_W = 6` of them, so that an operand of
`parse` of another size cannot be written down (R110, R146). -/
structure Hdr6 where
  b0 : Byte
  b1 : Byte
  b2 : Byte
  b3 : Byte
  b4 : Byte
  b5 : Byte
deriving DecidableEq, Repr, Inhabited

end Sys2Proof
end

