-- ==== Sys2Proof/Syntax.lean ====
section
/-! DEFINITION. The syntax: one constructor per row of spec/opcode_table.json (30_encoding.md R117 for the
fourteen operations, R113 and R115 for the three wire rows), and the opaque names the operations carry. -/

namespace Sys2Proof

/-- The transfer tag, owned by the protocol engine (R6, R12). The block only moves it; the number is a
name and nothing computes with it. -/
structure Tag where
  name : Nat
deriving DecidableEq, Repr, Inhabited

/-- The producer's error (R6, R53): opaque, passed on unchanged. -/
structure FragError where
  name : Nat
deriving DecidableEq, Repr, Inhabited

/-- The protocol engine's inbound error (R6, R58): opaque, carried by a log event. -/
structure EngineError where
  name : Nat
deriving DecidableEq, Repr, Inhabited

/-- A fragment producer session (R24 `tx_prod`, R53): an opaque handle. -/
structure Session where
  handle : Nat
deriving DecidableEq, Repr, Inhabited

/-- The operations of the block and the three classes of a header on the wire. -/
inductive Instr where
  /-- `HDR.SERIALIZE` (R140): the call `serialize(len, src, dst)`. -/
  | hdrSerialize (len : Len) (src dst : Byte)
  /-- `HDR.PARSE` (R141): the call `parse(b)`, six bytes by type (R146). -/
  | hdrParse (b : Hdr6)
  /-- `TX.SEND` (R160): the request `send([m_0, ..., m_k])`. -/
  | txSend (bufs : List Bytes)
  /-- `TX.PULL` (R161). -/
  | txPull
  /-- `TX.FRAG` (R162) on the fragment of the pull. -/
  | txFrag (f : Bytes)
  /-- `TX.DONE` (R163) with the tag of the completion. -/
  | txDone (tag : Tag)
  /-- `TX.FERR` (R164) with the producer's error. -/
  | txFerr (e : FragError)
  /-- `RX.HDR` (R191). -/
  | rxHdr
  /-- `RX.CHK` (R192). -/
  | rxChk
  /-- `RX.PAY` (R193). -/
  | rxPay
  /-- `RX.FLT` (R194). -/
  | rxFlt
  /-- `RX.DEC` (R195). -/
  | rxDec
  /-- `RX.RCK` (R196). -/
  | rxRck
  /-- `RX.DLV` (R197). -/
  | rxDlv
  /-- `FRAME` (R113): a legal header, `magic = MAGIC` and `version = VERSION`. -/
  | frame (length : Len) (source dest : Byte)
  /-- `FRAME.BADMAGIC` (R115): `magic != MAGIC`, any version. -/
  | frameBadMagic (magic version : Byte) (length : Len) (source dest : Byte)
  /-- `FRAME.BADVERSION` (R115): `magic = MAGIC` and `version != VERSION`. -/
  | frameBadVersion (version : Byte) (length : Len) (source dest : Byte)
deriving DecidableEq, Repr

/-- The two formats of spec/opcode_table.json: `OP` rows carry the spec's own number (R118), `HDR6` rows a
real 48-bit pattern. -/
inductive Format where
  | op
  | hdr6
deriving DecidableEq, Repr

end Sys2Proof
end

