-- ==== Sys2Proof/Machine/Ports.lean ====
section
/-! DEFINITION. The values that cross the block's ports (12_interfaces.md R50 to R64): requests, answers,
log events and results, and the stimuli a run is made of (30_encoding.md R119). -/

namespace Sys2Proof

/-- The parsed header (R12, R141). -/
structure Header where
  magic : Byte
  version : Byte
  length : Len
  sourceAddr : Byte
  destAddr : Byte
deriving DecidableEq, Repr, Inhabited

/-- The error type of `parse`: exactly two values (R248). -/
inductive ParseError where
  | badMagic
  | badVersion
deriving DecidableEq, Repr

/-- What `parse` returns (R141). -/
inductive ParseResult where
  | ok (h : Header)
  | err (e : ParseError)
deriving DecidableEq, Repr

/-- A call on HDR (R117 rows 0 and 1). -/
inductive HdrCall where
  | serialize (len : Len) (src dst : Byte)
  | parse (b : Hdr6)
deriving DecidableEq, Repr

/-- What HDR returns to a call. -/
inductive HdrResult where
  | bytes (b : Hdr6)
  | parsed (r : ParseResult)
deriving DecidableEq, Repr

/-- What the bus codec's `BusDecode` gives when it succeeds: the fragment and the one field of the
bus-level header the block uses (R57). -/
structure BusDecoded where
  frag : Bytes
  bdst : Byte
deriving DecidableEq, Repr, Inhabited

/-- The three values on the CFG port (R51). -/
structure CfgPort where
  localAddr : Byte
  peerAddr : Byte
  pec : Bool
deriving DecidableEq, Repr, Inhabited

/-- One call `FragStart(msg, MTU)` (R53). -/
structure FragStartCall where
  msg : Bytes
  mtu : Nat
deriving DecidableEq, Repr

/-- The producer's answer to `FragNext` (R53): three kinds. -/
inductive FragAns where
  | packet (f : Bytes)
  | complete (tag : Tag)
  | error (e : FragError)
deriving DecidableEq, Repr

/-- What the send half of the connection does with the write in progress (R55). -/
inductive WriteAns where
  /-- All bytes of the write have been appended. -/
  | ok
  /-- The write failed; `k` is the draw of how many of its bytes reached the stream (R119 `Fail(k)`). -/
  | fail (k : Nat)
  /-- No answer yet, but up to `k` further bytes of the write have reached the stream: the write in flight
  of R29 (b). -/
  | part (k : Nat)
deriving DecidableEq, Repr

/-- The answer to `RxByte` (R56). -/
inductive RxAns where
  | byte (b : Byte)
  | eos
  | err
deriving DecidableEq, Repr

/-- The protocol engine's answer to `Inbound` (R58). -/
inductive InbAns where
  | ok
  | err (e : EngineError)
deriving DecidableEq, Repr

/-- The response on the SEND port (R52, R231). -/
inductive SendResult where
  | ok (tag : Tag)
  | txError
  | fragError (e : FragError)
deriving DecidableEq, Repr

/-- An event on the LOG port (R59, R231). The kind is all the spec fixes. -/
inductive LogEvent where
  | dropFrameDest
  | decodeFail
  | dropBusDest
  | engineErr (e : EngineError)
deriving DecidableEq, Repr

/-- One entry of the script a run follows: a stimulus on a port in the notation of R119, or the turn of one
of the two agents (R89, R244). Which comes next is the environment's choice, so a script is any list. -/
inductive Stimulus where
  /-- The owner makes a request on the SEND port (R52). -/
  | send (bufs : List Bytes)
  /-- The engine's answer to the next `FragStart`: a session (R53, D28: there is no other answer). -/
  | start (session : Session)
  /-- The producer's answer to the next `FragNext`. -/
  | frag (a : FragAns)
  /-- The channel's answer to the next `ChanWrite`, or progress of the one in flight. -/
  | write (a : WriteAns)
  /-- The next answer of `RxByte`: a byte becomes available, or the stream ends, or the read fails. -/
  | rx (a : RxAns)
  /-- The engine's answer to the next `Inbound`. -/
  | inbound (a : InbAns)
  /-- The values on the CFG port change (R51). -/
  | cfg (p : CfgPort)
  /-- RST is asserted and released (R61, R270). -/
  | rst
  /-- TXF takes its next operation, if one is enabled. -/
  | tx
  /-- RXP takes its next operation, if one is enabled, a read at the grain of one byte. -/
  | rxp
  /-- RXP takes a whole header that stands in the inbound stream, read and check fused (R26, R191). -/
  | rxpHeader
  /-- HDR is called on its own (R117 rows 0 and 1). -/
  | hdr (c : HdrCall)
deriving DecidableEq, Repr

end Sys2Proof
end

