-- ==== Sys2Proof/Config.lean ====
section
/-! DEFINITION. What an implementation fixes and what the spec leaves open: the parameters of 00_scope.md R6
and the free values. Each constant here is opaque: nothing can be proved of its value. -/

namespace Sys2Proof

/-- One value of `BusEncode`: the packet for these four arguments (R54). -/
structure EncEntry where
  dst : Byte
  src : Byte
  pec : Bool
  frag : Bytes
  packet : Bytes
deriving DecidableEq, Repr

/-- One value of `BusDecode`: the result for these two arguments, `none` for `Err` (R57). -/
structure DecEntry where
  pec : Bool
  packet : Bytes
  result : Option BusDecoded
deriving DecidableEq, Repr

/-- The OPEN parameters of R6. The bus codec is a pair of functions and a state is plain data: `enc` and `dec` hold
the pair's values at finitely many arguments, and `Config.busEncode` and `Config.busDecode` give every other. -/
structure Params where
  magic : Byte
  version : Byte
  mtu : Nat
  enc : List EncEntry
  dec : List DecEntry
deriving DecidableEq, Repr, Inhabited

/-- The fixed-width registers that R31 leaves unspecified at reset. -/
structure DeadRegs where
  txProd : Session
  txHdr : Hdr6
  rxHbuf : Hdr6
  rxLen : Len
  rxSrc : Byte
  rxDst : Byte
  rxBdst : Byte
deriving DecidableEq, Repr, Inhabited

/-- `HDR_W`, the header width in bytes (R6, R110). -/
def hdrW : Nat := 6

/-- `PAY_MAX`, the largest value of a 16-bit `length` (R6). -/
def payMax : Nat := 65535

/-- `MAGIC` (R6, R22): OPEN, so a free value. -/
opaque Config.magic : Byte

/-- `VERSION` (R6, R22): OPEN, so a free value. -/
opaque Config.version : Byte

/-- `MTU - 1`: a free value, written so that `MTU >= 1` holds whatever it is (R6). -/
opaque Config.mtuPred : Nat

/-- The parameters of this block, hardwired (R22); no value of the bus codec is fixed. -/
def Config.params : Params :=
  { magic := Config.magic, version := Config.version, mtu := Config.mtuPred + 1, enc := [], dec := [] }

/-- `BusEncode(dst, src, pec, f)` (R54): the bus codec's encoder, total and pure; nothing else is known of it. -/
opaque Config.busEncode : Byte → Byte → Bool → Bytes → Bytes

/-- `BusDecode(pec, bp)` (R57): the bus codec's decoder; `none` is its `Err`. -/
opaque Config.busDecode : Bool → Bytes → Option BusDecoded

/-- The values on the CFG port when reset is first released (R31, R51): the owner's choice. -/
opaque Config.cfgPort : CfgPort

/-- What the unspecified registers hold after the `n`-th reset (R31, U8). -/
opaque Config.dead : Nat → DeadRegs

/-- What the environment does after the first reset: every stimulus and every turn, in order (U17, U18). -/
opaque Config.script : List Stimulus

end Sys2Proof
end

