-- ==== Sys2Proof/Machine/State.lean ====
section
/-! DEFINITION. The state of the block as plain data (10_state.md R20 to R31), the environment's side of its
ports (12_interfaces.md), and the state after reset (R31, R271). -/

namespace Sys2Proof.Machine

/-- A step of this machine never faults: a fatal stop of RXP is a defined transition to a terminal state and not
a model fault (R10, R232), and the block has no address, alignment or trap to fault on (R83, R87). -/
inductive Fault where
deriving DecidableEq, Repr

/-- Where the spec gives a run no meaning. -/
inductive Refusal where
  /-- An operation that has no meaning yet; raised by `exec`'s refused arms alone. Safe. -/
  | notModelled (mnemonic : String)
  /-- Raised by `TX.PULL` and `TX.FRAG` on a fragment longer than `MTU` (R10, R53, R168, U9). Safe. -/
  | fragmentTooLong
  /-- Raised by `TX.FRAG` when the codec's bus packet is longer than `PAY_MAX` (R10, R54, R173, U10). Safe. -/
  | packetTooLong
deriving DecidableEq, Repr

/-- The configuration registers (R21): sampled at reset, read-only after. -/
structure CfgRegs where
  localAddr : Byte
  peerAddr : Byte
  pec : Bool
deriving DecidableEq, Repr

/-- `tx_state` (R24). -/
inductive TxState where
  | idle
  | busy
deriving DecidableEq, Repr

/-- The fragment outcome pending in TXF (R117: "no fragment outcome pending", R161), and the write in flight
(R29 (b)). -/
inductive TxPend where
  | none
  /-- The pull returned `Packet(f)`, with `f` in `tx_frag`. -/
  | packet
  /-- `ChanWrite` of the frame in `tx_hdr`, `tx_pkt` has begun and has no answer. -/
  | writing
  | complete (tag : Tag)
  | error (e : FragError)
deriving DecidableEq, Repr

/-- The registers of TXF (R24) and the two pieces its hidden state needs (R29). -/
structure TxRegs where
  state : TxState
  prod : Session
  frag : Bytes
  pkt : Bytes
  hdr : Hdr6
  pend : TxPend
  /-- How many bytes of the write in flight stand in the outbound stream (R29 (b)). -/
  sent : Nat
  /-- The message of a `FragStart` that `TX.SEND` has called and that has no answer (R50, R64, R160). -/
  starting : Option Bytes
deriving DecidableEq, Repr

/-- `rx_state` (R25, R198). -/
inductive RxState where
  | running
  | stopped
deriving DecidableEq, Repr

/-- `rx_cause` (R231). -/
inductive RxCause where
  | none
  | cleanEof
  | hdrReadErr
  | hdrShort
  | badMagic
  | badVersion
  | payReadErr
  | payShort
deriving DecidableEq, Repr

/-- `rx_phase` (R25). -/
inductive RxPhase where
  | hdr
  | chk
  | pay
  | flt
  | dec
  | rck
  | dlv
deriving DecidableEq, Repr

/-- The registers of RXP (R25). -/
structure RxRegs where
  state : RxState
  cause : RxCause
  phase : RxPhase
  cnt : BitVec 16
  hbuf : Hdr6
  len : Len
  src : Byte
  dst : Byte
  /-- The meaningful bytes of `rx_pbuf`, from index 0. -/
  pbuf : Bytes
  frag : Bytes
  bdst : Byte
deriving DecidableEq, Repr

/-- What waits at the block's ports: requests held and answers given but not yet taken, oldest first, the values
on the CFG port, and the script of what the environment does next (R50, R64, R89, R170). -/
structure Inputs where
  script : List Stimulus
  cfgPort : CfgPort
  sendReqs : List (List Bytes)
  startAns : List Session
  fragAns : List FragAns
  writeAns : List WriteAns
  rxAns : List RxAns
  inbAns : List InbAns
deriving DecidableEq, Repr

/-- What the block has done at its ports, oldest first. `outStream` is the outbound stream (R80) and `inTaken` the
position of RXP in the inbound stream; the others are the calls and responses an observer of the ports sees. -/
structure Outputs where
  outStream : Bytes
  inTaken : Nat
  fragStarts : List FragStartCall
  fragNexts : List Session
  writes : List Bytes
  deliveries : List Bytes
  log : List LogEvent
  sendResults : List SendResult
  hdrResults : List HdrResult
deriving DecidableEq, Repr

/-- The state. `draws` counts the resets, each of which draws free values, and is the model's own. -/
structure State where
  par : Params
  cfg : CfgRegs
  tx : TxRegs
  rx : RxRegs
  inp : Inputs
  out : Outputs
  draws : Nat
deriving DecidableEq, Repr

/-- The configuration registers as reset leaves them: the values on the CFG port (R31, R51). -/
def CfgRegs.reset (p : CfgPort) : CfgRegs :=
  { localAddr := p.localAddr, peerAddr := p.peerAddr, pec := p.pec }

/-- TXF after reset (R31): `IDLE`, nothing pending; the other registers hold what `d` says. -/
def TxRegs.reset (d : DeadRegs) : TxRegs :=
  { state := .idle, prod := d.txProd, frag := [], pkt := [], hdr := d.txHdr, pend := .none, sent := 0,
    starting := none }

/-- RXP after reset (R31): `RUNNING`, phase `HDR`, count 0, cause `NONE`; the buffers hold what `d` says. -/
def RxRegs.reset (d : DeadRegs) : RxRegs :=
  { state := .running, cause := .none, phase := .hdr, cnt := 0, hbuf := d.rxHbuf, len := d.rxLen,
    src := d.rxSrc, dst := d.rxDst, pbuf := [], frag := [], bdst := d.rxBdst }

/-- The ports right after the first reset: nothing has arrived; what will arrive is not known. -/
def Inputs.reset : Inputs :=
  { script := Config.script, cfgPort := Config.cfgPort, sendReqs := [], startAns := [], fragAns := [],
    writeAns := [], rxAns := [], inbAns := [] }

/-- Nothing has been done at any port: no byte written, no byte read (R31). -/
def Outputs.reset : Outputs :=
  { outStream := [], inTaken := 0, fragStarts := [], fragNexts := [], writes := [], deliveries := [],
    log := [], sendResults := [], hdrResults := [] }

/-- The machine right after reset (R31, R271). -/
def State.reset : State :=
  { par := Config.params, cfg := CfgRegs.reset Config.cfgPort, tx := TxRegs.reset (Config.dead 0),
    rx := RxRegs.reset (Config.dead 0), inp := Inputs.reset, out := Outputs.reset, draws := 1 }

/-- Replace the configuration registers. -/
def State.setCfg (s : State) (c : CfgRegs) : State := { s with cfg := c }

/-- Replace the registers of TXF. -/
def State.setTx (s : State) (t : TxRegs) : State := { s with tx := t }

/-- Replace the registers of RXP. -/
def State.setRx (s : State) (r : RxRegs) : State := { s with rx := r }

/-- Replace what waits at the ports. -/
def State.setInp (s : State) (n : Inputs) : State := { s with inp := n }

/-- Replace the record of what was done at the ports. -/
def State.setOut (s : State) (o : Outputs) : State := { s with out := o }

end Sys2Proof.Machine
end

