-- ==== Sys2Proof/Machine/Flags.lean ====
section
/-! DEFINITION. The status of the block: it has no condition flags (10_state.md R27), only the receiver's state and
cause, the sequencing registers, and the codes of 60_exceptions.md R231. -/

namespace Sys2Proof.Machine

/-- The encoding of `tx_state` in its one bit (R24). -/
def TxState.code : TxState → BitVec 1
  | .idle => 0
  | .busy => 1

/-- The encoding of `rx_state` in its one bit (R25). -/
def RxState.code : RxState → BitVec 1
  | .running => 0
  | .stopped => 1

/-- The three-bit code of a stop cause (R231). -/
def RxCause.code : RxCause → BitVec 3
  | .none => 0
  | .cleanEof => 1
  | .hdrReadErr => 2
  | .hdrShort => 3
  | .badMagic => 4
  | .badVersion => 5
  | .payReadErr => 6
  | .payShort => 7

/-- The three-bit code of a phase (R25). -/
def RxPhase.code : RxPhase → BitVec 3
  | .hdr => 0
  | .chk => 1
  | .pay => 2
  | .flt => 3
  | .dec => 4
  | .rck => 5
  | .dlv => 6

end Sys2Proof.Machine

namespace Sys2Proof

/-- The code of a log event (R231). -/
def LogEvent.code : LogEvent → Nat
  | .dropFrameDest => 1
  | .decodeFail => 2
  | .dropBusDest => 3
  | .engineErr _ => 4

/-- The code of a send's result (R231). -/
def SendResult.code : SendResult → Nat
  | .ok _ => 0
  | .txError => 1
  | .fragError _ => 2

end Sys2Proof

namespace Sys2Proof.Machine

/-- The cause `RX.CHK` records for an error of `parse` (R192, R248). -/
def causeOfParse : ParseError → RxCause
  | .badMagic => .badMagic
  | .badVersion => .badVersion

/-- The four classes of R230, and the two conditions that are no error. -/
inductive ErrorClass where
  | noError
  | normalEnd
  | transportFatal
  | frameRecoverable
  | engineReported
  | fragmentationReported
deriving DecidableEq, Repr

/-- The class of a stop cause (R231). -/
def RxCause.errorClass : RxCause → ErrorClass
  | .none => .noError
  | .cleanEof => .normalEnd
  | .hdrReadErr | .hdrShort | .badMagic | .badVersion | .payReadErr | .payShort => .transportFatal

/-- What the RXSTAT port shows at all times (R60). -/
def State.rxstat (s : State) : RxState × RxCause := (s.rx.state, s.rx.cause)

/-- RXP may take the step of phase `p` (R117, R190). -/
def State.rxAt (p : RxPhase) (s : State) : Bool :=
  decide (s.rx.state = .running) && decide (s.rx.phase = p)

end Sys2Proof.Machine

namespace Sys2Proof

/-- The class of a log event (R231). -/
def LogEvent.errorClass : LogEvent → Machine.ErrorClass
  | .dropFrameDest | .decodeFail | .dropBusDest => .frameRecoverable
  | .engineErr _ => .engineReported

/-- The class of a send's result (R231). -/
def SendResult.errorClass : SendResult → Machine.ErrorClass
  | .ok _ => .noError
  | .txError => .transportFatal
  | .fragError _ => .fragmentationReported

end Sys2Proof
end

