-- ==== Sys2Proof/Machine/Operands.lean ====
section
/-! DEFINITION. The operand forms: the fields of a frame header (30_encoding.md R111, R112), the header word,
and the two pure functions of HDR (40_header_codec.md R140, R141). -/

namespace Sys2Proof

/-- The six bytes in wire order (R110). -/
def Hdr6.toList (h : Hdr6) : Bytes := [h.b0, h.b1, h.b2, h.b3, h.b4, h.b5]

/-- The header word `H`: byte `i` is `H[8i+7 : 8i]` (R7, R111). -/
def Hdr6.word (h : Hdr6) : HeaderWord :=
  h.b0.setWidth 48 ||| (h.b1.setWidth 48 <<< 8) ||| (h.b2.setWidth 48 <<< 16) ||| (h.b3.setWidth 48 <<< 24) |||
    (h.b4.setWidth 48 <<< 32) ||| (h.b5.setWidth 48 <<< 40)

/-- The six bytes of a header word (R7, R111). -/
def Hdr6.ofWord (w : HeaderWord) : Hdr6 :=
  { b0 := w.extractLsb' 0 8, b1 := w.extractLsb' 8 8, b2 := w.extractLsb' 16 8,
    b3 := w.extractLsb' 24 8, b4 := w.extractLsb' 32 8, b5 := w.extractLsb' 40 8 }

/-- `rx_hbuf[k] <- x` (R191). There is no byte at index 6 or above. -/
def Hdr6.set (h : Hdr6) (k : Nat) (x : Byte) : Hdr6 :=
  match k with
  | 0 => { h with b0 := x }
  | 1 => { h with b1 := x }
  | 2 => { h with b2 := x }
  | 3 => { h with b3 := x }
  | 4 => { h with b4 := x }
  | 5 => { h with b5 := x }
  | _ => h

/-- `length[7:0]`, the byte at frame offset 2 (R82, R112). -/
def lenLow (l : Len) : Byte := l.extractLsb' 0 8

/-- `length[15:8]`, the byte at frame offset 3 (R82, R112). -/
def lenHigh (l : Len) : Byte := l.extractLsb' 8 8

/-- `zext_16(lo) + 256 * zext_16(hi)` (R112, R141). -/
def lenJoin (lo hi : Byte) : Len := lo.setWidth 16 + 256#16 * hi.setWidth 16

/-- The `length` field of a header (R112). -/
def Hdr6.length (h : Hdr6) : Len := lenJoin h.b2 h.b3

/-- A header with the four fields after the two constants laid out (R110, R112). -/
def Hdr6.ofFields (magic version : Byte) (len : Len) (src dst : Byte) : Hdr6 :=
  { b0 := magic, b1 := version, b2 := lenLow len, b3 := lenHigh len, b4 := src, b5 := dst }

/-- `serialize(len, src, dst)` (R140). -/
def serialize (p : Params) (len : Len) (src dst : Byte) : Hdr6 :=
  Hdr6.ofFields p.magic p.version len src dst

/-- `parse(b)` (R141): the magic is tested first. -/
def parse (p : Params) (b : Hdr6) : ParseResult :=
  if b.b0 ≠ p.magic then .err .badMagic
  else if b.b1 ≠ p.version then .err .badVersion
  else .ok { magic := b.b0, version := b.b1, length := b.length, sourceAddr := b.b4, destAddr := b.b5 }

/-- `match` of R113: `zext_48(MAGIC) | (zext_48(VERSION) << 8)`. -/
def headerMatch (p : Params) : HeaderWord := p.magic.setWidth 48 ||| (p.version.setWidth 48 <<< 8)

/-- `mask` of R113. -/
def headerMask : HeaderWord := 0x00000000FFFF#48

/-- `BusEncode(dst, src, pec, f)` (R54). -/
def Params.busEncode (p : Params) (dst src : Byte) (pec : Bool) (f : Bytes) : Bytes :=
  match p.enc.find? (fun e => e.dst == dst && e.src == src && e.pec == pec && e.frag == f) with
  | some e => e.packet
  | none => Config.busEncode dst src pec f

/-- `BusDecode(pec, bp)` (R57). -/
def Params.busDecode (p : Params) (pec : Bool) (bp : Bytes) : Option BusDecoded :=
  match p.dec.find? (fun e => e.pec == pec && e.packet == bp) with
  | some e => e.result
  | none => Config.busDecode pec bp

/-- `buf[k] <- x` on a buffer that lists its meaningful bytes only: the bytes below `k` stay, `x` is byte `k`,
and what stood above `k` is no longer meaningful (R25 `rx_pbuf`). -/
def storeAt (buf : Bytes) (k : Nat) (x : Byte) : Bytes := buf.take k ++ [x]

/-- The result HDR gives a call (R117 rows 0 and 1). -/
def HdrCall.result (p : Params) : HdrCall → HdrResult
  | .serialize len src dst => .bytes (Sys2Proof.serialize p len src dst)
  | .parse b => .parsed (Sys2Proof.parse p b)

/-- The operation a call on HDR is. -/
def HdrCall.toInstr : HdrCall → Instr
  | .serialize len src dst => .hdrSerialize len src dst
  | .parse b => .hdrParse b

end Sys2Proof
end

