-- ==== Sys2Proof/Machine/Ops.lean ====
section
/-! DEFINITION. The operations the meanings share: the entry of each error class (60_exceptions.md R232 to R236), the
only way back (reset, R240, R270), the exact read (12_interfaces.md R56) and the channel write (R55). -/

namespace Sys2Proof.Machine

/-! ## Errors: entry and way back -/

/-- The fatal stop of RXP (R232): the cause, then `STOPPED`; nothing else changes. -/
def stopRx (c : RxCause) (s : State) : State := s.setRx { s.rx with cause := c, state := .stopped }

/-- `next_frame`: RXP goes on with the header of the next frame. -/
def nextFrame (s : State) : State := s.setRx { s.rx with phase := .hdr, cnt := 0 }

/-- One event on the LOG port (R59). -/
def logEvent (e : LogEvent) (s : State) : State := s.setOut { s.out with log := s.out.log ++ [e] }

/-- The recoverable drop (R233). -/
def dropFrame (e : LogEvent) (s : State) : State := nextFrame (logEvent e s)

/-- The one response of a send on the SEND port (R52). -/
def respond (r : SendResult) (s : State) : State :=
  s.setOut { s.out with sendResults := s.out.sendResults ++ [r] }

/-- The end of a send (R163 to R165, R175): TXF goes to `IDLE` and responds. -/
def endSend (r : SendResult) (s : State) : State :=
  respond r (s.setTx { s.tx with state := .idle, pend := .none, sent := 0 })

/-- RST (R61, R270, R271): every register at its value of R31, both stream positions 0; what was given on the
ports of the old connection and not taken is lost, and a request still held on the SEND port stays held. -/
def resetBlock (s : State) : State :=
  { par := s.par
    cfg := CfgRegs.reset s.inp.cfgPort
    tx := TxRegs.reset (Config.dead s.draws)
    rx := RxRegs.reset (Config.dead s.draws)
    inp := { s.inp with startAns := [], fragAns := [], writeAns := [], rxAns := [], inbAns := [] }
    out := { s.out with outStream := [], inTaken := 0 }
    draws := s.draws + 1 }

/-! ## The inbound stream -/

/-- What the next turn of `ReadExact(n)` meets (R56), with `rx_cnt` bytes taken so far. -/
inductive ReadStep where
  /-- The count is reached: no `RxByte` call is made. -/
  | full
  /-- `RxByte` has no answer yet (R64). -/
  | blocked
  | got (b : Byte)
  | short
  | failed
deriving DecidableEq, Repr

/-- One turn of the loop of `ReadExact(n)` (R56). -/
def readNext (n : Nat) (s : State) : ReadStep :=
  if n ≤ s.rx.cnt.toNat then .full
  else match s.inp.rxAns with
    | [] => .blocked
    | .byte b :: _ => .got b
    | .eos :: _ => .short
    | .err :: _ => .failed

/-- Take the answer of `RxByte` that `readNext` met. -/
def popRx (s : State) : State := s.setInp { s.inp with rxAns := s.inp.rxAns.tail }

/-- `n` bytes of the inbound stream have been consumed (R85). -/
def countTaken (n : Nat) (s : State) : State := s.setOut { s.out with inTaken := s.out.inTaken + n }

/-- After byte `rx_cnt` of a read of `n` bytes (R26): count it, or leave the phase with the count cleared. -/
def advanceRead (n : Nat) (next : RxPhase) (s : State) : State :=
  if s.rx.cnt.toNat + 1 < n then s.setRx { s.rx with cnt := s.rx.cnt + 1 }
  else s.setRx { s.rx with phase := next, cnt := 0 }

/-- One turn of a read of `n` bytes at the grain of one byte (R56, R191, R193): `store` puts a byte into the
phase's buffer, `next` is the phase after the last byte, `short` and `failed` are the causes of the stops. -/
def readTurn (n : Nat) (next : RxPhase) (store : Byte → RxRegs → RxRegs) (short failed : RxCause) (s : State) :
    State :=
  match readNext n s with
  | .full => s.setRx { s.rx with phase := next, cnt := 0 }
  | .blocked => s
  | .got b => advanceRead n next ((countTaken 1 (popRx s)).setRx (store b s.rx))
  | .short => stopRx short (popRx s)
  | .failed => stopRx failed (popRx s)

/-! ## The outbound stream -/

/-- Append bytes to the outbound stream (R80). -/
def appendOut (bs : Bytes) (s : State) : State := s.setOut { s.out with outStream := s.out.outStream ++ bs }

/-- The frame in flight: header then payload, one write (R55, R93). -/
def TxRegs.frame (t : TxRegs) : Bytes := t.hdr.toList ++ t.pkt

/-- Where a write that has not succeeded stands after a draw of `k`: never below what is already there, and never
the whole frame (R55, U6). -/
def prefixLen (t : TxRegs) (k : Nat) : Nat := max t.sent (min k (t.frame.length - 1))

/-- The bytes of the frame in flight between what stands in the stream and position `n`. -/
def TxRegs.slice (t : TxRegs) (n : Nat) : Bytes := (t.frame.take n).drop t.sent

/-- Begin `ChanWrite(tx_hdr ++ tx_pkt)` of a bus packet (R55, R162). -/
def beginWrite (pkt : Bytes) (s : State) : State :=
  let hdr := serialize s.par (BitVec.ofNat 16 pkt.length) s.cfg.localAddr s.cfg.peerAddr
  let t := { s.tx with pkt := pkt, hdr := hdr, pend := .writing, sent := 0 }
  (s.setTx t).setOut { s.out with writes := s.out.writes ++ [t.frame] }

/-- One turn of the write in flight (R29 (b), R55, R162, R165). -/
def writeTurn (s : State) : State :=
  match s.inp.writeAns with
  | [] => s
  | .ok :: rest =>
    appendOut (s.tx.slice s.tx.frame.length)
      ((s.setInp { s.inp with writeAns := rest }).setTx { s.tx with pend := .none, sent := 0 })
  | .part k :: rest =>
    let n := prefixLen s.tx (s.tx.sent + k)
    appendOut (s.tx.slice n) ((s.setInp { s.inp with writeAns := rest }).setTx { s.tx with sent := n })
  | .fail k :: rest =>
    endSend .txError
      (appendOut (s.tx.slice (prefixLen s.tx k)) (s.setInp { s.inp with writeAns := rest }))

end Sys2Proof.Machine
end

