-- ==== Sys2Proof/Machine/Hdr.lean ====
section
/-! DEFINITION. HDR, the frame-header codec (40_header_codec.md): its two operations as calls. -/

namespace Sys2Proof.Machine

/-- The caller of HDR gets its result; no register changes (R23, R140, R141). -/
def returnHdr (r : HdrResult) (s : State) : State :=
  s.setOut { s.out with hdrResults := s.out.hdrResults ++ [r] }

/-- `HDR.SERIALIZE` (R140). -/
def execHdrSerialize (len : Len) (src dst : Byte) (s : State) : Host.Outcome State Fault Refusal :=
  .next (returnHdr (.bytes (serialize s.par len src dst)) s)

/-- `HDR.PARSE` (R141). -/
def execHdrParse (b : Hdr6) (s : State) : Host.Outcome State Fault Refusal :=
  .next (returnHdr (.parsed (parse s.par b)) s)

end Sys2Proof.Machine
end

