-- ==== Sys2Proof/Machine/Rxp.lean ====
section
/-! DEFINITION. RXP, the inbound frame parser and address validator (42_inbound_parser.md R190 to R207). A step whose
phase does not name it, or of a stopped RXP, does not happen: the state stays (R26, R190, R199). -/

namespace Sys2Proof.Machine

/-- Take the step of phase `p` if it is enabled (R190). -/
def atPhase (p : RxPhase) (f : State → State) (s : State) : State := if s.rxAt p then f s else s

/-- The cause of an end-of-stream in a header read (R191): clean only when no byte of the header was taken. -/
def hdrEosCause (s : State) : RxCause := if s.rx.cnt = 0 then .cleanEof else .hdrShort

/-- `RX.HDR` at the grain of one byte (R191). -/
def readHeaderByte (s : State) : State :=
  readTurn hdrW .chk (fun b r => { r with hbuf := r.hbuf.set r.cnt.toNat b }) (hdrEosCause s) .hdrReadErr s

/-- `RX.CHK` (R192). -/
def checkHeader (s : State) : State :=
  match parse s.par s.rx.hbuf with
  | .err e => stopRx (causeOfParse e) s
  | .ok h =>
    s.setRx { s.rx with len := h.length, src := h.sourceAddr, dst := h.destAddr, phase := .pay, cnt := 0 }

/-- `RX.PAY` at the grain of one byte (R193); with `rx_len = 0` it takes no byte (R203). -/
def readPayloadByte (s : State) : State :=
  readTurn s.rx.len.toNat .flt (fun b r => { r with pbuf := storeAt r.pbuf r.cnt.toNat b }) .payShort .payReadErr s

/-- `RX.FLT` (R194). -/
def filterFrame (s : State) : State :=
  if s.rx.dst ≠ s.cfg.localAddr then dropFrame .dropFrameDest s else s.setRx { s.rx with phase := .dec }

/-- The payload of the frame in hand: `rx_pbuf[0..rx_len]` (R195). -/
def RxRegs.payload (r : RxRegs) : Bytes := r.pbuf.take r.len.toNat

/-- `RX.DEC` (R195). -/
def decodePayload (s : State) : State :=
  match s.par.busDecode s.cfg.pec s.rx.payload with
  | none => dropFrame .decodeFail s
  | some d => s.setRx { s.rx with frag := d.frag, bdst := d.bdst, phase := .rck }

/-- `RX.RCK` (R196). -/
def recheckDest (s : State) : State :=
  if s.rx.bdst ≠ s.cfg.localAddr then dropFrame .dropBusDest s else s.setRx { s.rx with phase := .dlv }

/-- The engine has been given `rx_frag` and has answered (R58). -/
def deliver (s : State) : State :=
  (s.setInp { s.inp with inbAns := s.inp.inbAns.tail }).setOut
    { s.out with deliveries := s.out.deliveries ++ [s.rx.frag] }

/-- `RX.DLV` (R197): whatever the engine answers, the next frame is next; no answer yet, RXP waits. -/
def deliverFragment (s : State) : State :=
  match s.inp.inbAns with
  | [] => s
  | .ok :: _ => nextFrame (deliver s)
  | .err e :: _ => nextFrame (logEvent (.engineErr e) (deliver s))

/-- `RX.HDR` (R191). -/
def execRxHdr (s : State) : Host.Outcome State Fault Refusal := .next (atPhase .hdr readHeaderByte s)

/-- `RX.CHK` (R192). -/
def execRxChk (s : State) : Host.Outcome State Fault Refusal := .next (atPhase .chk checkHeader s)

/-- `RX.PAY` (R193). -/
def execRxPay (s : State) : Host.Outcome State Fault Refusal := .next (atPhase .pay readPayloadByte s)

/-- `RX.FLT` (R194). -/
def execRxFlt (s : State) : Host.Outcome State Fault Refusal := .next (atPhase .flt filterFrame s)

/-- `RX.DEC` (R195). -/
def execRxDec (s : State) : Host.Outcome State Fault Refusal := .next (atPhase .dec decodePayload s)

/-- `RX.RCK` (R196). -/
def execRxRck (s : State) : Host.Outcome State Fault Refusal := .next (atPhase .rck recheckDest s)

/-- `RX.DLV` (R197). -/
def execRxDlv (s : State) : Host.Outcome State Fault Refusal := .next (atPhase .dlv deliverFragment s)

end Sys2Proof.Machine
end

