-- ==== Sys2Proof/Machine/Txf.lean ====
section
/-! DEFINITION. TXF, the outbound fragment framer (41_outbound_framer.md R160 to R175). -/

namespace Sys2Proof.Machine

/-- Call `FragStart(msg, MTU)` (R53, R160). -/
def beginStart (msg : Bytes) (s : State) : State :=
  (s.setTx { s.tx with starting := some msg }).setOut
    { s.out with fragStarts := s.out.fragStarts ++ [{ msg := msg, mtu := s.par.mtu }] }

/-- One turn of a `FragStart` that has been called (R50, R64): no answer yet, TXF waits; else the session goes to `tx_prod`
and then TXF is `BUSY` (R160). -/
def startTurn (s : State) : State :=
  match s.inp.startAns with
  | [] => s
  | session :: rest =>
    (s.setInp { s.inp with startAns := rest }).setTx
      { s.tx with prod := session, state := .busy, pend := .none, starting := none }

/-- A request that TXF does not take now waits behind those already held (R52, R170). -/
def holdRequest (bufs : List Bytes) (s : State) : State :=
  s.setInp { s.inp with sendReqs := s.inp.sendReqs ++ [bufs] }

/-- `TX.SEND` (R160): in `IDLE` it calls `FragStart` and waits for the session, or goes on waiting for the message it has
called it with; any other request made then, and every request made in `BUSY`, is held (R170). -/
def execTxSend (bufs : List Bytes) (s : State) : Host.Outcome State Fault Refusal :=
  .next (match s.tx.state, s.tx.starting with
    | .idle, none => startTurn (beginStart bufs.flatten s)
    | .idle, some msg => if bufs.flatten = msg then startTurn s else holdRequest bufs s
    | .busy, _ => holdRequest bufs s)

/-- The producer has answered `FragNext(tx_prod)`: take the answer. -/
def takeFragAns (s : State) : State :=
  (s.setInp { s.inp with fragAns := s.inp.fragAns.tail }).setOut
    { s.out with fragNexts := s.out.fragNexts ++ [s.tx.prod] }

/-- `TX.PULL` (R161): the outcome becomes pending; a fragment above `MTU` is refused (R168). -/
def execTxPull (s : State) : Host.Outcome State Fault Refusal :=
  match s.tx.state, s.tx.pend, s.inp.fragAns with
  | .busy, .none, .packet f :: _ =>
    if s.par.mtu < f.length then .refused .fragmentTooLong
    else .next ((takeFragAns s).setTx { s.tx with frag := f, pend := .packet })
  | .busy, .none, .complete tag :: _ => .next ((takeFragAns s).setTx { s.tx with pend := .complete tag })
  | .busy, .none, .error e :: _ => .next ((takeFragAns s).setTx { s.tx with pend := .error e })
  | _, _, _ => .next s

/-- The bus packet of a fragment: destination the peer, source this node (R54, R162). -/
def busPacket (f : Bytes) (s : State) : Bytes := s.par.busEncode s.cfg.peerAddr s.cfg.localAddr s.cfg.pec f

/-- Frame one fragment and begin to write it (R162), unless a contract of the environment is broken (R168, R173). -/
def frameFragment (f : Bytes) (s : State) : Host.Outcome State Fault Refusal :=
  if s.par.mtu < f.length then .refused .fragmentTooLong
  else if payMax < (busPacket f s).length then .refused .packetTooLong
  else .next (writeTurn (beginWrite (busPacket f s) s))

/-- `TX.FRAG` (R162, R165): frame and write a pending fragment, or go on with the write in flight (R29 (b)). -/
def execTxFrag (f : Bytes) (s : State) : Host.Outcome State Fault Refusal :=
  match s.tx.state, s.tx.pend with
  | .busy, .packet => frameFragment f s
  | .busy, .writing => .next (writeTurn s)
  | _, _ => .next s

/-- `TX.DONE` (R163). -/
def execTxDone (tag : Tag) (s : State) : Host.Outcome State Fault Refusal :=
  .next (match s.tx.state, s.tx.pend with
    | .busy, .complete _ => endSend (.ok tag) s
    | _, _ => s)

/-- `TX.FERR` (R164, R235). -/
def execTxFerr (e : FragError) (s : State) : Host.Outcome State Fault Refusal :=
  .next (match s.tx.state, s.tx.pend with
    | .busy, .error _ => endSend (.fragError e) s
    | _, _ => s)

end Sys2Proof.Machine
end

