-- ==== Sys2Proof/Machine/Wire.lean ====
section
/-! DEFINITION. The three wire rows (30_encoding.md R113, R115): what RXP does with a whole header that has come in. It is
`RX.HDR` for all six bytes and `RX.CHK`, fused (10_state.md R26, 42_inbound_parser.md R191, R192). -/

namespace Sys2Proof.Machine

/-- RXP is at a frame boundary: `RUNNING`, phase `HDR`, no byte of a header taken. -/
def State.atBoundary (s : State) : Bool := s.rxAt .hdr && decide (s.rx.cnt = 0)

/-- The six bytes `h` are the next header: `rx_hbuf <- h`, then the check of R192. -/
def receiveHeader (h : Hdr6) (s : State) : State :=
  if s.atBoundary then checkHeader (s.setRx { s.rx with hbuf := h, phase := .chk, cnt := 0 }) else s

/-- `FRAME` (R113): a legal header. -/
def execFrame (len : Len) (src dst : Byte) (s : State) : Host.Outcome State Fault Refusal :=
  .next (receiveHeader (serialize s.par len src dst) s)

/-- `FRAME.BADMAGIC` (R115): RXP stops with `BAD_MAGIC`. -/
def execFrameBadMagic (m v : Byte) (len : Len) (src dst : Byte) (s : State) : Host.Outcome State Fault Refusal :=
  .next (receiveHeader (Hdr6.ofFields m v len src dst) s)

/-- `FRAME.BADVERSION` (R115): RXP stops with `BAD_VERSION`. -/
def execFrameBadVersion (v : Byte) (len : Len) (src dst : Byte) (s : State) : Host.Outcome State Fault Refusal :=
  .next (receiveHeader (Hdr6.ofFields s.par.magic v len src dst) s)

end Sys2Proof.Machine
end

