-- ==== Sys2Proof/Machine/Dispatch.lean ====
section
/-! DEFINITION. One arm per row of spec/opcode_table.json. -/

namespace Sys2Proof.Machine

def exec (i : Instr) (s : State) : Host.Outcome State Fault Refusal :=
  match i with
  -- HDR, the frame-header codec
  | .hdrSerialize len src dst => Sys2Proof.Machine.execHdrSerialize len src dst s
  | .hdrParse b => Sys2Proof.Machine.execHdrParse b s
  -- TXF, the outbound fragment framer
  | .txSend bufs => Sys2Proof.Machine.execTxSend bufs s
  | .txPull => Sys2Proof.Machine.execTxPull s
  | .txFrag f => Sys2Proof.Machine.execTxFrag f s
  | .txDone tag => Sys2Proof.Machine.execTxDone tag s
  | .txFerr e => Sys2Proof.Machine.execTxFerr e s
  -- RXP, the inbound frame parser and address validator
  | .rxHdr => Sys2Proof.Machine.execRxHdr s
  | .rxChk => Sys2Proof.Machine.execRxChk s
  | .rxPay => Sys2Proof.Machine.execRxPay s
  | .rxFlt => Sys2Proof.Machine.execRxFlt s
  | .rxDec => Sys2Proof.Machine.execRxDec s
  | .rxRck => Sys2Proof.Machine.execRxRck s
  | .rxDlv => Sys2Proof.Machine.execRxDlv s
  -- the wire format
  | .frame length source dest => Sys2Proof.Machine.execFrame length source dest s
  | .frameBadMagic magic version length source dest => Sys2Proof.Machine.execFrameBadMagic magic version length source dest s
  | .frameBadVersion version length source dest => Sys2Proof.Machine.execFrameBadVersion version length source dest s

end Sys2Proof.Machine
end

