-- ==== Sys2Proof/WellFormed.lean ====
section
/-! DEFINITION. Which instructions the spec's encodings and port contracts admit. -/

namespace Sys2Proof

/-- A well-formed instruction: a send request is a list of one or more buffers (R52), a fragment holds at most
`MTU` bytes (R53, R168), and an illegal header is illegal in the way its row says (R115). Every other operand
may take every value of its type (R116, R140, R146). -/
def WellFormed (p : Params) : Instr → Bool
  | .txSend bufs => !bufs.isEmpty
  | .txFrag f => decide (f.length ≤ p.mtu)
  | .frameBadMagic m _ _ _ _ => decide (m ≠ p.magic)
  | .frameBadVersion v _ _ _ => decide (v ≠ p.version)
  | .hdrSerialize _ _ _ | .hdrParse _ | .txPull | .txDone _ | .txFerr _ => true
  | .rxHdr | .rxChk | .rxPay | .rxFlt | .rxDec | .rxRck | .rxDlv => true
  | .frame _ _ _ => true

end Sys2Proof
end

