-- ==== Sys2Proof/Decode.lean ====
section
/-! DEFINITION. Decoding: a header on the wire to one of the three wire rows (30_encoding.md R113 to R115),
an operation number to its operation (R117, R118); then the encoder of both. -/

namespace Sys2Proof

/-- Why bytes give no instruction. -/
inductive DecodeError where
  /-- An operation label is one byte and there is none. -/
  | noLabel
  /-- R117 numbers the operations 0 to 13. -/
  | noSuchOperation (number : Nat)
  /-- A header is exactly six bytes (R110, R146) and only `have_` are there. -/
  | shortHeader (have_ : Nat)
deriving DecidableEq, Repr

/-- The class of a header (R113, R115): magic first, then version. Every header has one. -/
def decodeHeader (p : Params) (h : Hdr6) : Instr :=
  if h.b0 ≠ p.magic then .frameBadMagic h.b0 h.b1 h.length h.b4 h.b5
  else if h.b1 ≠ p.version then .frameBadVersion h.b1 h.length h.b4 h.b5
  else .frame h.length h.b4 h.b5

/-- The operation a number of R117 names. The operands of an operation come over ports and registers and are in
no word, so they are zero or empty here (R118). -/
def ofOpNumber : Nat → Option Instr
  | 0 => some (.hdrSerialize 0 0 0)
  | 1 => some (.hdrParse ⟨0, 0, 0, 0, 0, 0⟩)
  | 2 => some (.txSend [[]])
  | 3 => some .txPull
  | 4 => some (.txFrag [])
  | 5 => some (.txDone ⟨0⟩)
  | 6 => some (.txFerr ⟨0⟩)
  | 7 => some .rxHdr
  | 8 => some .rxChk
  | 9 => some .rxPay
  | 10 => some .rxFlt
  | 11 => some .rxDec
  | 12 => some .rxRck
  | 13 => some .rxDlv
  | _ => none

/-- The number R117 gives an operation; a wire row has none. -/
def opNumber : Instr → Option Nat
  | .hdrSerialize _ _ _ => some 0
  | .hdrParse _ => some 1
  | .txSend _ => some 2
  | .txPull => some 3
  | .txFrag _ => some 4
  | .txDone _ => some 5
  | .txFerr _ => some 6
  | .rxHdr => some 7
  | .rxChk => some 8
  | .rxPay => some 9
  | .rxFlt => some 10
  | .rxDec => some 11
  | .rxRck => some 12
  | .rxDlv => some 13
  | .frame _ _ _ => none
  | .frameBadMagic _ _ _ _ _ => none
  | .frameBadVersion _ _ _ _ => none

/-- The format of an instruction's row in spec/opcode_table.json. -/
def Instr.format (i : Instr) : Format := if (opNumber i).isSome then .op else .hdr6

/-- Bytes to an instruction and the bytes after it; total on any bytes. -/
def decode (p : Params) (fmt : Format) (bytes : Bytes) : Except DecodeError (Instr × Bytes) :=
  match fmt, bytes with
  | .op, [] => .error .noLabel
  | .op, n :: rest =>
    match ofOpNumber n.toNat with
    | some i => .ok (i, rest)
    | none => .error (.noSuchOperation n.toNat)
  | .hdr6, b0 :: b1 :: b2 :: b3 :: b4 :: b5 :: rest => .ok (decodeHeader p ⟨b0, b1, b2, b3, b4, b5⟩, rest)
  | .hdr6, short => .error (.shortHeader short.length)

/-- The six bytes of a wire row (R110 to R112, R140); an operation has none. -/
def encodeHeader (p : Params) : Instr → Option Hdr6
  | .frame len src dst => some (serialize p len src dst)
  | .frameBadMagic m v len src dst => some (Hdr6.ofFields m v len src dst)
  | .frameBadVersion v len src dst => some (Hdr6.ofFields p.magic v len src dst)
  | _ => none

/-- The word of an instruction: its header, or its operation number as one byte. -/
def encode (p : Params) (i : Instr) : Bytes :=
  match encodeHeader p i, opNumber i with
  | some h, _ => h.toList
  | none, some n => [BitVec.ofNat 8 n]
  | none, none => []

/-- An instruction as far as its word tells it: the operands that no word carries (R118) at zero or empty. It is
written apart from the decoder's table, so that a statement can hold the decoder to it. -/
def Instr.bare : Instr → Instr
  | .hdrSerialize _ _ _ => .hdrSerialize 0 0 0
  | .hdrParse _ => .hdrParse { b0 := 0, b1 := 0, b2 := 0, b3 := 0, b4 := 0, b5 := 0 }
  | .txSend _ => .txSend [[]]
  | .txPull => .txPull
  | .txFrag _ => .txFrag []
  | .txDone _ => .txDone { name := 0 }
  | .txFerr _ => .txFerr { name := 0 }
  | .rxHdr => .rxHdr
  | .rxChk => .rxChk
  | .rxPay => .rxPay
  | .rxFlt => .rxFlt
  | .rxDec => .rxDec
  | .rxRck => .rxRck
  | .rxDlv => .rxDlv
  | .frame length source dest => .frame length source dest
  | .frameBadMagic magic version length source dest => .frameBadMagic magic version length source dest
  | .frameBadVersion version length source dest => .frameBadVersion version length source dest

/-- The host's numbering of a row's bits: bit 0 is the least significant bit of the first byte, so a 48-bit row
is the header word `H` of R7 and an operation row its number. Rows of at most one byte are operations. -/
def decodeTableWord (nbits w : Nat) : Option Instr :=
  match decide (nbits ≤ 8), decide (w < 256), decide (w < 2 ^ 48) with
  | true, true, _ => ((decode Config.params .op [BitVec.ofNat 8 w]).toOption).map Prod.fst
  | false, _, true => ((decode Config.params .hdr6 (Hdr6.ofWord (BitVec.ofNat 48 w)).toList).toOption).map Prod.fst
  | _, _, _ => none

end Sys2Proof
end

