-- ==== Sys2Proof/Machine/Select.lean ====
section
/-! DEFINITION. How an operation comes to happen (30_encoding.md R117, 10_state.md R26): the sequencing registers select
it, in the place of a fetch at a program counter. -/

namespace Sys2Proof.Machine

/-- The operation TXF takes next, with the request it takes from the SEND port gone from there (R117, R170, R175). A
`TX.SEND` whose `FragStart` has no answer goes on (R64). -/
def fetchTx (s : State) : Option (Instr × State) :=
  match s.tx.state, s.tx.starting, s.inp.sendReqs with
  | .idle, some msg, _ => some (.txSend [msg], s)
  | .idle, none, [] => none
  | .idle, none, bufs :: rest => some (.txSend bufs, s.setInp { s.inp with sendReqs := rest })
  | .busy, _, _ =>
    some (match s.tx.pend with
      | .none => .txPull
      | .packet => .txFrag s.tx.frag
      | .writing => .txFrag s.tx.frag
      | .complete tag => .txDone tag
      | .error e => .txFerr e, s)

/-- The operation of an RXP phase (R117). -/
def phaseInstr : RxPhase → Instr
  | .hdr => .rxHdr
  | .chk => .rxChk
  | .pay => .rxPay
  | .flt => .rxFlt
  | .dec => .rxDec
  | .rck => .rxRck
  | .dlv => .rxDlv

/-- The operation RXP takes next: none when it is `STOPPED` (R26, R199). -/
def fetchRx (s : State) : Option (Instr × State) :=
  match s.rx.state with
  | .running => some (phaseInstr s.rx.phase, s)
  | .stopped => none

/-- The six bytes at the front of the inbound stream, if they are there, and the answers after them. -/
def frontHeader : List RxAns → Option (Hdr6 × List RxAns)
  | .byte b0 :: .byte b1 :: .byte b2 :: .byte b3 :: .byte b4 :: .byte b5 :: rest =>
    some (⟨b0, b1, b2, b3, b4, b5⟩, rest)
  | _ => none

/-- A whole header at a frame boundary: it is taken from the stream, counted, and decoded (R84, R113, R115). -/
def fetchHeader (s : State) : Option (Instr × State) :=
  match s.atBoundary, frontHeader s.inp.rxAns with
  | true, some (h, rest) =>
    some (decodeHeader s.par h, countTaken hdrW (s.setInp { s.inp with rxAns := rest }))
  | _, _ => none

/-- The operation that an entry of the script makes happen, and the state it runs from. -/
def fetch (ev : Stimulus) (s : State) : Option (Instr × State) :=
  match ev with
  | .tx => fetchTx s
  | .rxp => fetchRx s
  | .rxpHeader => match fetchHeader s with
    | some r => some r
    | none => fetchRx s
  | .hdr c => some (c.toInstr, s)
  | .send _ | .start _ | .frag _ | .write _ | .rx _ | .inbound _ | .cfg _ | .rst => none

/-- What an entry of the script does that makes no operation happen: an arrival at a port, a change of the CFG port's
values, reset, or the turn of an agent that has nothing enabled (R50, R51, R64, R170, R239, R270). -/
def stimulate (ev : Stimulus) (s : State) : State :=
  match ev with
  | .send bufs => s.setInp { s.inp with sendReqs := s.inp.sendReqs ++ [bufs] }
  | .start session => s.setInp { s.inp with startAns := s.inp.startAns ++ [session] }
  | .frag a => s.setInp { s.inp with fragAns := s.inp.fragAns ++ [a] }
  | .write a => s.setInp { s.inp with writeAns := s.inp.writeAns ++ [a] }
  | .rx a => s.setInp { s.inp with rxAns := s.inp.rxAns ++ [a] }
  | .inbound a => s.setInp { s.inp with inbAns := s.inp.inbAns ++ [a] }
  | .cfg p => s.setInp { s.inp with cfgPort := p }
  | .rst => resetBlock s
  | .tx | .rxp | .rxpHeader | .hdr _ => s

/-- Go past the entry at the head of the script. -/
def popScript (s : State) : State := s.setInp { s.inp with script := s.inp.script.tail }

/-- Put an entry at the head of the script. -/
def pushScript (ev : Stimulus) (s : State) : State := s.setInp { s.inp with script := ev :: s.inp.script }

/-- RXP at the start of phase `p`. -/
def placeRx (p : RxPhase) (s : State) : State :=
  pushScript .rxp (s.setRx { s.rx with state := .running, cause := .none, phase := p, cnt := 0 })

/-- TXF in a send with `pend` pending. -/
def placeTx (pend : TxPend) (s : State) : State :=
  pushScript .tx (s.setTx { s.tx with state := .busy, pend := pend, sent := 0, starting := none })

/-- The six bytes of a header next in the inbound stream, RXP at a frame boundary, and its turn. -/
def placeHeader (h : Hdr6) (s : State) : State :=
  pushScript .rxpHeader
    ((s.setRx { s.rx with state := .running, cause := .none, phase := .hdr, cnt := 0 }).setInp
      { s.inp with rxAns := h.toList.map .byte ++ s.inp.rxAns })

/-- The state in which operation `i` is the one that happens next, with the port answer it takes in place. -/
def placeOp (i : Instr) (s : State) : State :=
  match i with
  | .hdrSerialize len src dst => pushScript (.hdr (.serialize len src dst)) s
  | .hdrParse b => pushScript (.hdr (.parse b)) s
  | .txSend bufs =>
    pushScript .tx ((s.setTx { s.tx with state := .idle, pend := .none, starting := none }).setInp
      { s.inp with sendReqs := bufs :: s.inp.sendReqs, startAns := { handle := 0 } :: s.inp.startAns })
  | .txPull => placeTx .none (s.setInp { s.inp with fragAns := .packet [] :: s.inp.fragAns })
  | .txFrag f =>
    placeTx .packet ((s.setTx { s.tx with frag := f }).setInp { s.inp with writeAns := .ok :: s.inp.writeAns })
  | .txDone tag => placeTx (.complete tag) s
  | .txFerr e => placeTx (.error e) s
  | .rxHdr => placeRx .hdr (s.setInp { s.inp with rxAns := .byte 0 :: s.inp.rxAns })
  | .rxChk => placeRx .chk s
  | .rxPay => placeRx .pay (s.setInp { s.inp with rxAns := .byte 0 :: s.inp.rxAns })
  | .rxFlt => placeRx .flt s
  | .rxDec => placeRx .dec s
  | .rxRck => placeRx .rck s
  | .rxDlv => placeRx .dlv (s.setInp { s.inp with inbAns := .ok :: s.inp.inbAns })
  | .frame len src dst => placeHeader (serialize s.par len src dst) s
  | .frameBadMagic m v len src dst => placeHeader (Hdr6.ofFields m v len src dst) s
  | .frameBadVersion v len src dst => placeHeader (Hdr6.ofFields s.par.magic v len src dst) s

end Sys2Proof.Machine
end

