-- ==== Sys2Proof/Machine/Agents.lean ====
section
/-! DEFINITION. The block and its environment take one entry of the script (20_memory.md R89, 60_exceptions.md R244). -/

namespace Sys2Proof.Machine

/-- One entry of the script: the operation it makes happen, or what it does at a port. -/
def runStimulus (ev : Stimulus) (s : State) : Host.Outcome State Fault Refusal :=
  match fetch ev s with
  | some (i, s') => exec i s'
  | none => .next (stimulate ev s)

/-- The next entry of the script; with none left, nothing more happens (R64). -/
def takeTurn (s : State) : Host.Outcome State Fault Refusal :=
  match s.inp.script with
  | [] => .next s
  | ev :: _ => runStimulus ev (popScript s)

end Sys2Proof.Machine
end

