-- ==== Sys2Proof/Machine/Step.lean ====
section
/-! DEFINITION. One step of the machine, and how an instruction is placed to be the next. -/

namespace Sys2Proof.Machine

/-- One step: one entry of the script. -/
def step (s : State) : Host.Outcome State Fault Refusal := takeTurn s

/-- `s` with the instruction of a table row placed to happen next: an operation number selects its operation, a
48-bit word is the next header in the inbound stream. A number that names no operation changes nothing. -/
def State.withFetchWord (s : State) (nbits w : Nat) : State :=
  if nbits ≤ 8 then
    match decodeTableWord nbits w with
    | some i => placeOp i s
    | none => s
  else placeHeader (Hdr6.ofWord (BitVec.ofNat 48 w)) s

end Sys2Proof.Machine
end

