-- ==== Sys2Proof/Safety.lean ====
section
/-! DEFINITION. The terms the statements use: the invariant of the block, the frame of each agent, what a frame on the
wire comes to, and what the source's properties speak of. -/

namespace Sys2Proof.Machine

/-! ## The invariant -/

/-- How far into an iteration a phase is: the number of R117 minus 7 (R25). -/
def RxPhase.rank (p : RxPhase) : Nat := p.code.toNat

/-- The header that the registers of a parsed frame describe (R25, R192). -/
def RxRegs.header (p : Params) (r : RxRegs) : Header :=
  { magic := p.magic, version := p.version, length := r.len, sourceAddr := r.src, destAddr := r.dst }

/-- The registers of RXP agree with each other, with the phase and with the configuration. -/
structure RxWf (s : State) : Prop where
  /-- `rx_cause` is `NONE` exactly while `RUNNING` (R25, R27). -/
  cause : s.rx.state = .running ↔ s.rx.cause = .none
  /-- In phase `HDR` the count is 0 to 5 (R25). -/
  hdrCount : s.rx.state = .running → s.rx.phase = .hdr → s.rx.cnt.toNat < hdrW
  /-- In phase `PAY` the count is 0 to `rx_len - 1`, and 0 when `rx_len` is 0 (R25, R26). -/
  payCount : s.rx.state = .running → s.rx.phase = .pay → s.rx.cnt.toNat < s.rx.len.toNat ∨ s.rx.cnt = 0
  /-- In every other phase the count is 0 (R26). -/
  otherCount : s.rx.state = .running → s.rx.phase ≠ .hdr → s.rx.phase ≠ .pay → s.rx.cnt = 0
  /-- From phase `PAY` on, the header in `rx_hbuf` is legal and `rx_len`, `rx_src`, `rx_dst` are its fields (R192). -/
  legal : s.rx.state = .running → 2 ≤ s.rx.phase.rank → parse s.par s.rx.hbuf = .ok (s.rx.header s.par)
  /-- The bytes of the payload taken so far are in `rx_pbuf` (R25). -/
  payBuf : s.rx.state = .running → s.rx.phase = .pay → s.rx.cnt.toNat ≤ s.rx.pbuf.length
  /-- After phase `PAY` the whole payload is (R25, R97). -/
  fullBuf : s.rx.state = .running → 3 ≤ s.rx.phase.rank → s.rx.len.toNat ≤ s.rx.pbuf.length
  /-- After `RX.FLT` the frame is addressed to this node (R194). -/
  mine : s.rx.state = .running → 4 ≤ s.rx.phase.rank → s.rx.dst = s.cfg.localAddr
  /-- After `RX.DEC` the fragment and the inner destination are what the codec gives for the payload (R195). -/
  decoded : s.rx.state = .running → 5 ≤ s.rx.phase.rank →
    s.par.busDecode s.cfg.pec s.rx.payload = some { frag := s.rx.frag, bdst := s.rx.bdst }
  /-- After `RX.RCK` the inner destination is this node (R196). -/
  inner : s.rx.state = .running → 6 ≤ s.rx.phase.rank → s.rx.bdst = s.cfg.localAddr

/-- The registers of TXF agree with each other, with the bounds of R24 and with the outbound stream. -/
structure TxWf (s : State) : Prop where
  /-- An outcome is pending only during a send (R24, R117). -/
  pendBusy : s.tx.pend ≠ .none → s.tx.state = .busy
  /-- `FragStart` waits for its answer only in `IDLE`: `BUSY` is what its answer makes (R160). -/
  startIdle : s.tx.starting ≠ none → s.tx.state = .idle
  /-- `tx_frag` holds at most `MTU` bytes (R24). -/
  fragBound : s.tx.frag.length ≤ s.par.mtu
  /-- `tx_pkt` holds at most `PAY_MAX` bytes (R24). -/
  pktBound : s.tx.pkt.length ≤ payMax
  /-- The header of a frame in flight says the size of its packet and the two configured addresses (R162, R166). -/
  header : s.tx.pend = .writing →
    s.tx.hdr = serialize s.par (BitVec.ofNat 16 s.tx.pkt.length) s.cfg.localAddr s.cfg.peerAddr
  /-- Of a frame in flight a strict prefix stands at the end of the outbound stream (R29 (b), R55). -/
  inFlight : s.tx.pend = .writing → s.tx.sent < s.tx.frame.length ∧ s.tx.frame.take s.tx.sent <:+ s.out.outStream

/-- The invariant of the block. -/
structure State.Wf (s : State) : Prop where
  /-- `MTU` is at least 1 (R6). -/
  mtu : 1 ≤ s.par.mtu
  rx : RxWf s
  tx : TxWf s

/-! ## Frames: what each agent leaves unchanged -/

/-- The operations of TXF. -/
def isTxOp : Instr → Bool
  | .txSend _ | .txPull | .txFrag _ | .txDone _ | .txFerr _ => true
  | .hdrSerialize _ _ _ | .hdrParse _ | .rxHdr | .rxChk | .rxPay | .rxFlt | .rxDec | .rxRck | .rxDlv
  | .frame _ _ _ | .frameBadMagic _ _ _ _ _ | .frameBadVersion _ _ _ _ => false

/-- The operations of RXP, the three wire rows among them. -/
def isRxOp : Instr → Bool
  | .rxHdr | .rxChk | .rxPay | .rxFlt | .rxDec | .rxRck | .rxDlv
  | .frame _ _ _ | .frameBadMagic _ _ _ _ _ | .frameBadVersion _ _ _ _ => true
  | .hdrSerialize _ _ _ | .hdrParse _ | .txSend _ | .txPull | .txFrag _ | .txDone _ | .txFerr _ => false

/-- What an operation of TXF leaves unchanged: parameters, configuration, all of RXP, RXP's ports, the script and
every byte already in the outbound stream. -/
structure TxKeeps (s t : State) : Prop where
  par : t.par = s.par
  cfg : t.cfg = s.cfg
  rx : t.rx = s.rx
  draws : t.draws = s.draws
  script : t.inp.script = s.inp.script
  cfgPort : t.inp.cfgPort = s.inp.cfgPort
  rxAns : t.inp.rxAns = s.inp.rxAns
  inbAns : t.inp.inbAns = s.inp.inbAns
  inTaken : t.out.inTaken = s.out.inTaken
  deliveries : t.out.deliveries = s.out.deliveries
  log : t.out.log = s.out.log
  hdrResults : t.out.hdrResults = s.out.hdrResults
  written : s.out.outStream <+: t.out.outStream

/-- What an operation of RXP leaves unchanged: parameters, configuration, all of TXF, TXF's ports, the script and
what was already delivered and logged. -/
structure RxKeeps (s t : State) : Prop where
  par : t.par = s.par
  cfg : t.cfg = s.cfg
  tx : t.tx = s.tx
  draws : t.draws = s.draws
  script : t.inp.script = s.inp.script
  cfgPort : t.inp.cfgPort = s.inp.cfgPort
  sendReqs : t.inp.sendReqs = s.inp.sendReqs
  startAns : t.inp.startAns = s.inp.startAns
  fragAns : t.inp.fragAns = s.inp.fragAns
  writeAns : t.inp.writeAns = s.inp.writeAns
  outStream : t.out.outStream = s.out.outStream
  fragStarts : t.out.fragStarts = s.out.fragStarts
  fragNexts : t.out.fragNexts = s.out.fragNexts
  writes : t.out.writes = s.out.writes
  sendResults : t.out.sendResults = s.out.sendResults
  hdrResults : t.out.hdrResults = s.out.hdrResults
  delivered : s.out.deliveries <+: t.out.deliveries
  logged : s.out.log <+: t.out.log

/-- A state with what RXP may not look at blotted out: the peer address, `rx_src`, and the byte of the header that
says `source_addr` (R200). -/
def blindRx (s : State) : State :=
  (s.setCfg { s.cfg with peerAddr := 0 }).setRx { s.rx with src := 0, hbuf := s.rx.hbuf.set 4 0 }

/-! ## Runs -/

/-- `n` steps of the block: the host's run, at the block's own types. -/
def runSteps (n : Nat) (s : State) : Host.Outcome State Fault Refusal := Host.Core.run core n s

/-! ## Frames on the wire -/

/-- The frame that carries a fragment to the peer (R110, R162, R166). -/
def frameFor (f : Bytes) (s : State) : Bytes :=
  (serialize s.par (BitVec.ofNat 16 (busPacket f s).length) s.cfg.localAddr s.cfg.peerAddr).toList ++ busPacket f s

/-- A fragment within the contracts of R168 and R173. -/
def fits (f : Bytes) (s : State) : Prop := f.length ≤ s.par.mtu ∧ (busPacket f s).length ≤ payMax

/-- A legal frame that comes in: the free fields of its header, and its payload. -/
structure InFrame where
  len : Len
  src : Byte
  dst : Byte
  payload : Bytes
deriving DecidableEq, Repr

/-- The header's `length` is the payload's size (R33 (a)). -/
def InFrame.exact (f : InFrame) : Prop := f.payload.length = f.len.toNat

/-- The bytes of a frame on the inbound stream (R86, R110). -/
def InFrame.bytes (p : Params) (f : InFrame) : Bytes := (serialize p f.len f.src f.dst).toList ++ f.payload

/-- What becomes of a frame whose payload is in (R194 to R197, R237). -/
inductive Verdict where
  | drop (e : LogEvent)
  | accept (frag : Bytes)
deriving DecidableEq, Repr

/-- The three checks after the payload, in order: the first that fires decides (R237). -/
def InFrame.verdict (p : Params) (c : CfgRegs) (f : InFrame) : Verdict :=
  if f.dst ≠ c.localAddr then .drop .dropFrameDest
  else match p.busDecode c.pec f.payload with
    | none => .drop .decodeFail
    | some d => if d.bdst ≠ c.localAddr then .drop .dropBusDest else .accept d.frag

/-- How many turns of RXP a frame takes: six header bytes, the check, the payload, then the steps up to the drop or
the delivery (R26, R203). -/
def InFrame.turns (p : Params) (c : CfgRegs) (f : InFrame) : Nat :=
  hdrW + 1 + max 1 f.payload.length +
    match f.verdict p c with
    | .drop .dropFrameDest => 1
    | .drop .decodeFail => 2
    | .drop _ => 3
    | .accept _ => 4

/-- The `Inbound` calls a verdict makes. -/
def Verdict.deliveries : Verdict → List Bytes
  | .drop _ => []
  | .accept f => [f]

/-- The log events of a verdict, given the engine's answer to the delivery (R233, R234). -/
def Verdict.log (a : InbAns) : Verdict → List LogEvent
  | .drop e => [e]
  | .accept _ => match a with
    | .ok => []
    | .err e => [.engineErr e]

/-- The engine's answers left after a verdict. -/
def Verdict.answersLeft (v : Verdict) (as : List InbAns) : List InbAns :=
  match v with
  | .drop _ => as
  | .accept _ => as.tail

/-- The log events of a sequence of frames, each delivery taking the engine's next answer (R233, R234). -/
def logOfFrames (p : Params) (c : CfgRegs) : List InFrame → List InbAns → List LogEvent
  | [], _ => []
  | f :: fs, as =>
    (f.verdict p c).log (as.headD .ok) ++ logOfFrames p c fs ((f.verdict p c).answersLeft as)

/-- RXP has stopped for cause `c`. -/
def State.stoppedFor (s : State) (c : RxCause) : Prop := s.rx.state = .stopped ∧ s.rx.cause = c

/-- From `s` to `t` RXP stopped for cause `c` and no other register of it changed (R232). -/
def State.stoppedAs (s t : State) (c : RxCause) : Prop := t.rx = { s.rx with cause := c, state := .stopped }

end Sys2Proof.Machine
end

