-- ==== Sys2Proof/Certificates/Slice0/Obligations.lean ====
section
/-! DEFINITION. The statements for the provers. -/

open Sys2Proof Sys2Proof.Machine

/-! ## The frame format and its codec -/

/-- R111: where every header field stands, in the wire bytes and in the header word `H`. That the low byte of `length`
stands at byte 2 and the high byte at byte 3 is the spec's decision D1 (log entry 19). -/
def Obligations.HeaderFieldPositions : Prop :=
  ∀ (m v : Byte) (len : Len) (src dst : Byte),
    (Hdr6.ofFields m v len src dst).toList = [m, v, len.extractLsb' 0 8, len.extractLsb' 8 8, src, dst] ∧
    (Hdr6.ofFields m v len src dst).word.extractLsb' 0 8 = m ∧
    (Hdr6.ofFields m v len src dst).word.extractLsb' 8 8 = v ∧
    (Hdr6.ofFields m v len src dst).word.extractLsb' 16 16 = len ∧
    (Hdr6.ofFields m v len src dst).word.extractLsb' 32 8 = src ∧
    (Hdr6.ofFields m v len src dst).word.extractLsb' 40 8 = dst ∧
    (Hdr6.ofFields m v len src dst).length = len

/-- R142: `parse` gives back what `serialize` was given, and `serialize` gives back every legal header. -/
def Obligations.ParseInvertsSerialize : Prop :=
  (∀ (p : Params) (len : Len) (src dst : Byte),
    parse p (serialize p len src dst) =
      .ok { magic := p.magic, version := p.version, length := len, sourceAddr := src, destAddr := dst }) ∧
  ∀ (p : Params) (b : Hdr6) (h : Header), parse p b = .ok h → serialize p h.length h.sourceAddr h.destAddr = b

/-- R143: one inverted bit of the magic or of the version of a serialized header is always reported, and `parse`
succeeds if and only if both bytes are right. -/
def Obligations.FlippedConstantBitIsRejected : Prop :=
  (∀ (p : Params) (len : Len) (src dst : Byte) (k : Nat), k < 8 →
    parse p { serialize p len src dst with b0 := (serialize p len src dst).b0 ^^^ (1#8 <<< k) } = .err .badMagic ∧
    parse p { serialize p len src dst with b1 := (serialize p len src dst).b1 ^^^ (1#8 <<< k) } = .err .badVersion) ∧
  ∀ (p : Params) (b : Hdr6), (∃ h, parse p b = .ok h) ↔ b.b0 = p.magic ∧ b.b1 = p.version

/-- R113: a header is legal exactly when `H & mask = match`, that is, when its first two bytes are the constants; and
it is then that it decodes to the row `FRAME`. -/
def Obligations.LegalHeaderIffMaskedWordMatches : Prop :=
  ∀ (p : Params) (h : Hdr6),
    (h.word &&& headerMask = headerMatch p ↔ h.b0 = p.magic ∧ h.b1 = p.version) ∧
    ((∃ len src dst, decodeHeader p h = .frame len src dst) ↔ h.word &&& headerMask = headerMatch p)

/-- R115, R141: the two illegal classes, magic tested first; the class of a header is the answer `parse` gives. That
the magic is tested first is the spec's decision D8 (log entry 20). -/
def Obligations.IllegalHeaderClassIsParseError : Prop :=
  ∀ (p : Params) (h : Hdr6),
    ((∃ m v len src dst, decodeHeader p h = .frameBadMagic m v len src dst) ↔ h.b0 ≠ p.magic) ∧
    ((∃ v len src dst, decodeHeader p h = .frameBadVersion v len src dst) ↔ h.b0 = p.magic ∧ h.b1 ≠ p.version) ∧
    (parse p h = .err .badMagic ↔ h.b0 ≠ p.magic) ∧
    (parse p h = .err .badVersion ↔ h.b0 = p.magic ∧ h.b1 ≠ p.version)

/-- Decoding the word of a well-formed instruction gives back its operation or its header class, with every operand
its word carries at every value; any bytes may follow. What its word cannot carry is nothing for the nine operations
without operands and for the three wire rows, and the operands alone for the other five; no two operations have one
number. That a label carries no operand is R118; that it decodes with its operands at zero is the model's DESIGN CHOICE
(log entry 17). -/
def Obligations.DecodeInvertsEncode : Prop :=
  (∀ (p : Params) (i : Instr) (rest : Bytes), WellFormed p i = true →
    decode p i.format (encode p i ++ rest) = .ok (match i with
      | .hdrSerialize _ _ _ => .hdrSerialize 0 0 0
      | .hdrParse _ => .hdrParse ⟨0, 0, 0, 0, 0, 0⟩
      | .txSend _ => .txSend [[]]
      | .txFrag _ => .txFrag []
      | .txDone _ => .txDone ⟨0⟩
      | .txFerr _ => .txFerr ⟨0⟩
      | .txPull | .rxHdr | .rxChk | .rxPay | .rxFlt | .rxDec | .rxRck | .rxDlv
      | .frame _ _ _ | .frameBadMagic _ _ _ _ _ | .frameBadVersion _ _ _ _ => i, rest)) ∧
  (∀ i : Instr, opNumber i.bare = opNumber i ∧ i.bare.format = i.format) ∧
  ∀ (i j : Instr) (n : Nat), opNumber i = some n → opNumber j = some n → i.bare = j.bare

/-- The other direction on the wire: whatever header bytes decode to is well-formed and is encoded by those bytes. -/
def Obligations.EncodeInvertsHeaderDecode : Prop :=
  ∀ (p : Params) (bytes rest : Bytes) (i : Instr), decode p .hdr6 bytes = .ok (i, rest) →
    WellFormed p i = true ∧ encode p i ++ rest = bytes ∧ i.format = .hdr6

/-- Header words written out from the spec's vectors V-SER-2, V-PAR-2, V-PAR-6 and V-PAR-10 decode to what they stand for.
The two lengths read low byte first, the spec's decision D1 (log entry 19). -/
def Obligations.SampleHeaderWordsDecode : Prop :=
  ∀ p : Params, p.magic = 0xA5 → p.version = 0x01 →
    decodeHeader p (Hdr6.ofWord 0x1020000F01A5) = .frame 15 0x20 0x10 ∧
    decodeHeader p (Hdr6.ofWord 0x10200F0001A5) = .frame 3840 0x20 0x10 ∧
    decodeHeader p (Hdr6.ofWord 0x1020000F01A4) = .frameBadMagic 0xA4 0x01 15 0x20 0x10 ∧
    decodeHeader p (Hdr6.ofWord 0x1020000002A5) = .frameBadVersion 0x02 0 0x20 0x10

/-- R140, R141, R23: a call on HDR returns its result and changes no register and no port but the caller's. That the low
byte of `length` comes first is the spec's decision D1 (log entry 19), and that a header with both bytes wrong is
`BadMagic` is its decision D8 (log entry 20). That returned values are kept in a field of State is the model's DESIGN
CHOICE (log entry 15). -/
def Obligations.HdrCallsReturnTheirResult : Prop :=
  ∀ s : State,
    (∀ (len : Len) (src dst : Byte), ∃ b : Hdr6,
      b.toList = [s.par.magic, s.par.version, len.extractLsb' 0 8, len.extractLsb' 8 8, src, dst] ∧
      exec (.hdrSerialize len src dst) s =
        .next (s.setOut { s.out with hdrResults := s.out.hdrResults ++ [.bytes b] })) ∧
    ∀ b : Hdr6, ∃ r : ParseResult,
      exec (.hdrParse b) s = .next (s.setOut { s.out with hdrResults := s.out.hdrResults ++ [.parsed r] }) ∧
      (b.b0 ≠ s.par.magic → r = .err .badMagic) ∧
      (b.b0 = s.par.magic → b.b1 ≠ s.par.version → r = .err .badVersion) ∧
      (b.b0 = s.par.magic → b.b1 = s.par.version →
        r = .ok { magic := b.b0, version := b.b1,
                  length := b.b2.setWidth 16 + 256#16 * b.b3.setWidth 16, sourceAddr := b.b4, destAddr := b.b5 })

/-- R231: the codes of causes, events and results; R117: the code of a phase is its operation's number minus 7. The
numbers are the spec's decisions D10 and D22 (log entry 26). -/
def Obligations.StatusCodes : Prop :=
  [RxCause.none, .cleanEof, .hdrReadErr, .hdrShort, .badMagic, .badVersion, .payReadErr, .payShort].map
      (fun c => c.code.toNat) = [0, 1, 2, 3, 4, 5, 6, 7] ∧
  (∀ e, [LogEvent.dropFrameDest, .decodeFail, .dropBusDest, .engineErr e].map LogEvent.code = [1, 2, 3, 4]) ∧
  (∀ t e, [SendResult.ok t, .txError, .fragError e].map SendResult.code = [0, 1, 2]) ∧
  ∀ ph : RxPhase, opNumber (phaseInstr ph) = some (7 + ph.code.toNat)

/-! ## TXF -/

/-- R160, R50, R64: an accepted request calls `FragStart` once, on the concatenated message. When the engine has answered,
the session is in `tx_prod` and TXF is `BUSY`; while it has not, TXF waits in `TX.SEND`, and the wait ends in the same
state as an answer at once. Nothing is written. That `tx_state` is still `IDLE` in the wait is read from the order of
R160's pseudocode, and the answers' queue is the model's DESIGN CHOICE (log entries 35 and 8). -/
def Obligations.TxSendStartsProducer : Prop :=
  (∀ (s : State) (bufs : List Bytes), s.tx.state = .idle → s.tx.starting = none →
    (∀ session more, s.inp.startAns = session :: more →
      ∃ t, exec (.txSend bufs) s = .next t ∧
        t.tx = { s.tx with state := .busy, prod := session, pend := .none } ∧
        t.out = { s.out with fragStarts := s.out.fragStarts ++ [{ msg := bufs.flatten, mtu := s.par.mtu }] } ∧
        t.inp = { s.inp with startAns := more } ∧ fetchTx t = some (.txPull, t) ∧ TxKeeps s t) ∧
    (s.inp.startAns = [] →
      ∃ t, exec (.txSend bufs) s = .next t ∧ t.tx = { s.tx with starting := some bufs.flatten } ∧
        t.out = { s.out with fragStarts := s.out.fragStarts ++ [{ msg := bufs.flatten, mtu := s.par.mtu }] } ∧
        t.inp = s.inp ∧ fetchTx t = some (.txSend [bufs.flatten], t) ∧ TxKeeps s t)) ∧
  ∀ (s : State) (msg : Bytes), s.tx.state = .idle → s.tx.starting = some msg →
    (s.inp.startAns = [] → exec (.txSend [msg]) s = .next s) ∧
    ∀ session more, s.inp.startAns = session :: more →
      exec (.txSend [msg]) s = .next ((s.setInp { s.inp with startAns := more }).setTx
        { s.tx with state := .busy, prod := session, pend := .none, starting := none })

/-- R170, R52: a request made in `BUSY`, or while `FragStart` of another one waits, is held behind those already held and
changes nothing else; in `IDLE` the request held longest is served and is no longer held. Holding the request is the
spec's decision D11; the list that holds it and the turn that serves it are the model's DESIGN CHOICE (log entries 13
and 9), and that a request in the wait for `FragStart` is held is DEDUCED (log entry 35). -/
def Obligations.SendRequestsAreHeldInOrder : Prop :=
  (∀ (s : State) (bufs : List Bytes),
    (s.tx.state = .busy ∨ s.tx.state = .idle ∧ ∃ msg, s.tx.starting = some msg ∧ bufs.flatten ≠ msg) →
    exec (.txSend bufs) s = .next (s.setInp { s.inp with sendReqs := s.inp.sendReqs ++ [bufs] })) ∧
  ∀ (s : State) (bufs : List Bytes) (held : List (List Bytes)) (script : List Stimulus),
    s.tx.state = .idle → s.tx.starting = none → s.inp.sendReqs = bufs :: held → s.inp.script = .tx :: script →
    step s = exec (.txSend bufs) (s.setInp { s.inp with script := script, sendReqs := held })

/-- R171: the buffer boundaries of an accepted request do not matter, and empty buffers change nothing. -/
def Obligations.VectoredSendIsItsConcatenation : Prop :=
  ∀ (s : State) (bufs : List Bytes), s.tx.state = .idle → s.tx.starting = none →
    exec (.txSend bufs) s = exec (.txSend [bufs.flatten]) s ∧
    exec (.txSend bufs) s = exec (.txSend (bufs.filter (fun b => !b.isEmpty))) s

/-- R161: the three kinds of a fragment outcome; each becomes the one pending and selects what TXF does next. A packet
fragment above `MTU` is refused, which is the spec's decision D14 (log entry 18). -/
def Obligations.TxPullTakesTheOutcome : Prop :=
  ∀ (s : State) (a : FragAns) (more : List FragAns),
    s.tx.state = .busy → s.tx.pend = .none → s.inp.fragAns = a :: more →
    ((∀ f, a = .packet f → f.length ≤ s.par.mtu) →
      ∃ t, exec .txPull s = .next t ∧
        t.inp = { s.inp with fragAns := more } ∧ t.out = { s.out with fragNexts := s.out.fragNexts ++ [s.tx.prod] } ∧
        t.tx = (match a with
          | .packet f => { s.tx with frag := f, pend := .packet }
          | .complete tag => { s.tx with pend := .complete tag }
          | .error e => { s.tx with pend := .error e }) ∧
        fetchTx t = some (match a with
          | .packet f => .txFrag f
          | .complete tag => .txDone tag
          | .error e => .txFerr e, t) ∧
        TxKeeps s t) ∧
    ∀ f, a = .packet f → s.par.mtu < f.length → exec .txPull s = .refused .fragmentTooLong

/-- R162: a fragment that fits goes out as one frame, header then packet, in one write; when the write succeeds TXF
pulls again, and when it fails the send ends with `TxError`. -/
def Obligations.TxFragWritesOneFrame : Prop :=
  ∀ (s : State) (f : Bytes), s.tx.state = .busy → s.tx.pend = .packet → fits f s →
    (∀ more, s.inp.writeAns = .ok :: more →
      ∃ t, exec (.txFrag f) s = .next t ∧
        t.tx.pkt = s.par.busEncode s.cfg.peerAddr s.cfg.localAddr s.cfg.pec f ∧
        t.tx.hdr = serialize s.par (BitVec.ofNat 16 t.tx.pkt.length) s.cfg.localAddr s.cfg.peerAddr ∧
        t.out = { s.out with outStream := s.out.outStream ++ (t.tx.hdr.toList ++ t.tx.pkt)
                             writes := s.out.writes ++ [t.tx.hdr.toList ++ t.tx.pkt] } ∧
        t.tx.hdr.length.toNat = t.tx.pkt.length ∧
        t.tx.state = .busy ∧ fetchTx t = some (.txPull, t) ∧ t.tx.prod = s.tx.prod ∧ t.tx.frag = s.tx.frag ∧
        t.inp = { s.inp with writeAns := more } ∧ TxKeeps s t) ∧
    ∀ k more, s.inp.writeAns = .fail k :: more →
      ∃ t, exec (.txFrag f) s = .next t ∧ t.tx.pkt = busPacket f s ∧
        t.tx.hdr = serialize s.par (BitVec.ofNat 16 t.tx.pkt.length) s.cfg.localAddr s.cfg.peerAddr ∧
        t.tx.state = .idle ∧ t.out.sendResults = s.out.sendResults ++ [.txError] ∧
        t.out.writes = s.out.writes ++ [t.tx.hdr.toList ++ t.tx.pkt]

/-- R165: a failed write leaves a strict prefix of the frame in the stream and ends the send with `TxError`; nothing
is pulled or retried, no other register changes, and TXF accepts a later send. That a draw of the whole frame or
more is cut to a strict prefix is the model's DESIGN CHOICE (log entry 11). That TXF accepts a later send after a
failure is the spec's decision D12 (log entry 33). -/
def Obligations.FailedWriteEndsTheSend : Prop :=
  ∀ (s : State) (f : Bytes) (k : Nat) (more : List WriteAns),
    s.tx.state = .busy → s.tx.pend = .packet → fits f s → s.inp.writeAns = .fail k :: more →
    ∃ t j, exec (.txFrag f) s = .next t ∧ j < (frameFor f s).length ∧ (k < (frameFor f s).length → j = k) ∧
      t.out = { s.out with outStream := s.out.outStream ++ (frameFor f s).take j
                           writes := s.out.writes ++ [frameFor f s]
                           sendResults := s.out.sendResults ++ [.txError] } ∧
      t.tx.state = .idle ∧ t.tx.pend = .none ∧ t.tx.prod = s.tx.prod ∧ t.tx.frag = s.tx.frag ∧
      t.inp = { s.inp with writeAns := more } ∧ t.tx.starting = s.tx.starting ∧ TxKeeps s t ∧
      (s.tx.starting = none → ∀ bufs, ∃ u, exec (.txSend bufs) t = .next u ∧
        u.out.fragStarts = t.out.fragStarts ++ [{ msg := bufs.flatten, mtu := t.par.mtu }] ∧
        ∀ session as, t.inp.startAns = session :: as → u.tx.state = .busy)

/-- R29 (b), R55, R64, R165: a write in flight. While the channel has not answered, TXF stays `BUSY` inside `TX.FRAG`; a
strict prefix of the frame may already stand in the stream and may grow; the answer `Ok` brings the rest of it, from
wherever it stood, and `Fail` ends the send with a strict prefix there, never less than already stood. The write in
flight with partial progress is the model's DESIGN CHOICE for R29 (b), and so is the cut of a draw to a strict prefix
(log entry 11). -/
def Obligations.WriteInFlightCompletesTheFrame : Prop :=
  ∀ (s : State) (f : Bytes), s.tx.state = .busy → s.tx.pend = .writing → TxWf s →
    (s.inp.writeAns = [] → exec (.txFrag f) s = .next s) ∧
    (∀ more, s.inp.writeAns = .ok :: more →
      ∃ t pre, exec (.txFrag f) s = .next t ∧ t.tx = { s.tx with pend := .none, sent := 0 } ∧
        t.inp = { s.inp with writeAns := more } ∧
        s.out.outStream = pre ++ s.tx.frame.take s.tx.sent ∧ t.out = { s.out with outStream := pre ++ s.tx.frame } ∧
        TxKeeps s t) ∧
    (∀ k more, s.inp.writeAns = .part k :: more →
      ∃ t n, exec (.txFrag f) s = .next t ∧ t.tx = { s.tx with sent := n } ∧ s.tx.sent ≤ n ∧
        n < s.tx.frame.length ∧ (s.tx.sent + k < s.tx.frame.length → n = s.tx.sent + k) ∧
        t.inp = { s.inp with writeAns := more } ∧
        t.out = { s.out with outStream := s.out.outStream ++ (s.tx.frame.take n).drop s.tx.sent } ∧ TxKeeps s t) ∧
    ∀ k more, s.inp.writeAns = .fail k :: more →
      ∃ t pre n, exec (.txFrag f) s = .next t ∧ t.tx = { s.tx with state := .idle, pend := .none, sent := 0 } ∧
        s.tx.sent ≤ n ∧ n < s.tx.frame.length ∧ (s.tx.sent ≤ k → k < s.tx.frame.length → n = k) ∧
        s.out.outStream = pre ++ s.tx.frame.take s.tx.sent ∧
        t.out = { s.out with outStream := pre ++ s.tx.frame.take n
                             sendResults := s.out.sendResults ++ [.txError] } ∧
        t.inp = { s.inp with writeAns := more } ∧ TxKeeps s t

/-- R55, R64, R162: the first turn of `TX.FRAG` when the channel has no answer yet, or only progress: the packet and the
header are in their registers, the one write has begun, and it stays in flight with `TX.FRAG` next. Progress is the
model's DESIGN CHOICE for R29 (b) (log entry 11). -/
def Obligations.FirstWriteTurnStaysInFlight : Prop :=
  ∀ (s : State) (f : Bytes), s.tx.state = .busy → s.tx.pend = .packet → fits f s →
    (s.inp.writeAns = [] →
      ∃ t, exec (.txFrag f) s = .next t ∧ t.tx.frame = frameFor f s ∧ t.tx.pkt = busPacket f s ∧
        t.tx = { s.tx with pkt := t.tx.pkt, hdr := t.tx.hdr, pend := .writing, sent := 0 } ∧
        t.inp = s.inp ∧ fetchTx t = some (.txFrag s.tx.frag, t) ∧
        t.out = { s.out with writes := s.out.writes ++ [frameFor f s] } ∧ TxKeeps s t) ∧
    ∀ k more, s.inp.writeAns = .part k :: more →
      ∃ t n, exec (.txFrag f) s = .next t ∧ t.tx.frame = frameFor f s ∧ t.tx.pkt = busPacket f s ∧
        n < (frameFor f s).length ∧ (k < (frameFor f s).length → n = k) ∧
        t.tx = { s.tx with pkt := t.tx.pkt, hdr := t.tx.hdr, pend := .writing, sent := n } ∧
        t.inp = { s.inp with writeAns := more } ∧ fetchTx t = some (.txFrag s.tx.frag, t) ∧
        t.out = { s.out with outStream := s.out.outStream ++ (frameFor f s).take n
                             writes := s.out.writes ++ [frameFor f s] } ∧ TxKeeps s t

/-- R163, R164: completion and the producer's error end the send with the one response, the value passed on unchanged;
nothing is written. -/
def Obligations.TxDoneAndTxFerrRespond : Prop :=
  ∀ s : State, s.tx.state = .busy →
    (∀ tag tag', s.tx.pend = .complete tag' →
      exec (.txDone tag) s = .next ((s.setTx { s.tx with state := .idle, pend := .none, sent := 0 }).setOut
        { s.out with sendResults := s.out.sendResults ++ [.ok tag] })) ∧
    ∀ e e', s.tx.pend = .error e' →
      exec (.txFerr e) s = .next ((s.setTx { s.tx with state := .idle, pend := .none, sent := 0 }).setOut
        { s.out with sendResults := s.out.sendResults ++ [.fragError e] })

/-- R168, R173: a fragment above `MTU` and a bus packet above 65535 bytes are refused; the length is never cut. The
refusal is the spec's decision D14 (log entry 18). -/
def Obligations.BrokenContractsAreRefused : Prop :=
  (∀ (s : State) (f : Bytes) (more : List FragAns), s.tx.state = .busy → s.tx.pend = .none →
    s.inp.fragAns = .packet f :: more → s.par.mtu < f.length → exec .txPull s = .refused .fragmentTooLong) ∧
  (∀ (s : State) (f : Bytes), s.tx.state = .busy → s.tx.pend = .packet → s.par.mtu < f.length →
    exec (.txFrag f) s = .refused .fragmentTooLong) ∧
  ∀ (s : State) (f : Bytes), s.tx.state = .busy → s.tx.pend = .packet → f.length ≤ s.par.mtu →
    65535 < (s.par.busEncode s.cfg.peerAddr s.cfg.localAddr s.cfg.pec f).length →
    exec (.txFrag f) s = .refused .packetTooLong

/-- R20, R85, R90: whatever TXF does, RXP, its ports, the configuration and every byte already written stay. -/
def Obligations.TxfLeavesTheRestUnchanged : Prop :=
  ∀ (i : Instr) (s t : State), isTxOp i = true → exec i s = .next t → TxKeeps s t

/-- R169, first half, with R120 and R175: a whole send of a message in N fragments, each within its contracts, on a
channel that takes every write, makes exactly N writes, the i-th the frame of the i-th fragment, then responds
`Ok(tag)`. Turns, and answers that wait in queues, are the model's DESIGN CHOICE (log entries 8, 9 and 10). -/
def Obligations.SendWritesOneFramePerFragment : Prop :=
  ∀ (s : State) (bufs : List Bytes) (held : List (List Bytes)) (fs : List Bytes) (tag : Tag) (script : List Stimulus)
    (session : Session) (starts : List Session) (frags : List FragAns) (writes : List WriteAns),
    s.tx.state = .idle → s.tx.starting = none → s.inp.sendReqs = bufs :: held → s.inp.startAns = session :: starts →
    (∀ f ∈ fs, fits f s) →
    s.inp.script = List.replicate (2 * fs.length + 3) Stimulus.tx ++ script →
    s.inp.fragAns = fs.map FragAns.packet ++ FragAns.complete tag :: frags →
    s.inp.writeAns = List.replicate fs.length WriteAns.ok ++ writes →
    ∃ t, runSteps (2 * fs.length + 3) s = .next t ∧ t.tx.state = .idle ∧
      t.out.writes = s.out.writes ++ fs.map (fun f => frameFor f s) ∧
      t.out.outStream = s.out.outStream ++ (fs.map (fun f => frameFor f s)).flatten ∧
      t.out.sendResults = s.out.sendResults ++ [.ok tag] ∧
      t.out.fragStarts = s.out.fragStarts ++ [{ msg := bufs.flatten, mtu := s.par.mtu }] ∧
      t.inp = { s.inp with script := script, sendReqs := held, startAns := starts, fragAns := frags
                           writeAns := writes } ∧
      t.rx = s.rx ∧ t.cfg = s.cfg ∧ t.out.deliveries = s.out.deliveries ∧ t.out.log = s.out.log

/-- R169, both halves: after such a send, a peer with the same constants whose local address is this node's peer address,
whose codec gives back each fragment, and which stands at the start of a frame, reads the bytes that were written and
delivers exactly the fragments, in order; at the end of that stream it closes clean. That the fragments concatenated
are the message is the producer's property and is not said (R169, N26). Turns, and answers that wait in queues, are the
model's DESIGN CHOICE (log entries 8, 9 and 10). -/
def Obligations.SentFragmentsReachThePeer : Prop :=
  ∀ (s : State) (bufs : List Bytes) (held : List (List Bytes)) (fs : List Bytes) (tag : Tag) (script : List Stimulus)
    (session : Session) (starts : List Session) (frags : List FragAns) (writes : List WriteAns),
    s.tx.state = .idle → s.tx.starting = none → s.inp.sendReqs = bufs :: held → s.inp.startAns = session :: starts →
    (∀ f ∈ fs, fits f s) →
    s.inp.script = List.replicate (2 * fs.length + 3) Stimulus.tx ++ script →
    s.inp.fragAns = fs.map FragAns.packet ++ FragAns.complete tag :: frags →
    s.inp.writeAns = List.replicate fs.length WriteAns.ok ++ writes →
    ∃ t bytes, runSteps (2 * fs.length + 3) s = .next t ∧ t.out.sendResults = s.out.sendResults ++ [.ok tag] ∧
      t.out.writes.length = s.out.writes.length + fs.length ∧ t.out.outStream = s.out.outStream ++ bytes ∧
      ∀ (p : State) (n : Nat) (more : List RxAns) (rest : List Stimulus), p.atBoundary = true →
        p.par.magic = s.par.magic → p.par.version = s.par.version → p.cfg.localAddr = s.cfg.peerAddr →
        (∀ f ∈ fs, p.par.busDecode p.cfg.pec (busPacket f s) = some { frag := f, bdst := s.cfg.peerAddr }) →
        p.inp.rxAns = bytes.map RxAns.byte ++ RxAns.eos :: more → fs.length ≤ p.inp.inbAns.length →
        n = (fs.map (fun f => 11 + max 1 (busPacket f s).length)).sum + 1 →
        p.inp.script = List.replicate n Stimulus.rxp ++ rest →
        ∃ q, runSteps n p = .next q ∧ q.stoppedFor .cleanEof ∧ q.out.deliveries = p.out.deliveries ++ fs ∧
          q.inp.rxAns = more

/-- R174: a send that ends in the producer's error or in a failed write leaves the frames already written in the
outbound stream, and of the failing one a strict prefix. Turns are the model's DESIGN CHOICE (log entries 9 and 10),
and so is the cut of a draw to a strict prefix (log entry 11). -/
def Obligations.FailedSendLeavesWholeFrames : Prop :=
  ∀ (s : State) (fs : List Bytes) (script : List Stimulus),
    s.tx.state = .busy → s.tx.pend = .none → (∀ f ∈ fs, fits f s) →
    s.inp.script = List.replicate (2 * fs.length + 2) Stimulus.tx ++ script →
    (∀ e frags writes, s.inp.fragAns = fs.map FragAns.packet ++ FragAns.error e :: frags →
      s.inp.writeAns = List.replicate fs.length WriteAns.ok ++ writes →
      ∃ t, runSteps (2 * fs.length + 2) s = .next t ∧ t.tx.state = .idle ∧
        t.out.outStream = s.out.outStream ++ (fs.map (fun f => frameFor f s)).flatten ∧
        t.out.sendResults = s.out.sendResults ++ [.fragError e] ∧ t.out.log = s.out.log ∧ t.rx = s.rx) ∧
    ∀ f k frags writes, s.inp.fragAns = fs.map FragAns.packet ++ FragAns.packet f :: frags → fits f s →
      s.inp.writeAns = List.replicate fs.length WriteAns.ok ++ WriteAns.fail k :: writes →
      ∃ t j, runSteps (2 * fs.length + 2) s = .next t ∧ t.tx.state = .idle ∧ j < (frameFor f s).length ∧
        t.out.outStream = s.out.outStream ++ (fs.map (fun f => frameFor f s)).flatten ++ (frameFor f s).take j ∧
        t.out.sendResults = s.out.sendResults ++ [.txError] ∧ t.inp.fragAns = frags ∧ t.rx = s.rx

/-- R175: a step of the machine ends a send exactly when it gives a response on the SEND port, and then exactly one;
reset ends it with none. -/
def Obligations.EverySendGetsExactlyOneResponse : Prop :=
  ∀ (s t : State) (ev : Stimulus) (script : List Stimulus), TxWf s → s.inp.script = ev :: script → ev ≠ .rst →
    step s = .next t →
    (s.tx.state = .busy ∧ t.tx.state = .idle ∧ ∃ r, t.out.sendResults = s.out.sendResults ++ [r]) ∨
    (¬(s.tx.state = .busy ∧ t.tx.state = .idle) ∧ t.out.sendResults = s.out.sendResults)

/-- R33 (a) and (b), R162, R166: a step begins at most one write, and it is of a frame with the peer as destination and
this node as source, whose packet was encoded for the peer and whose `length` is the packet's size. That the fragment has
at most `MTU` bytes and the packet's size always fits `length`, with no premise on the producer or the codec, holds
because a broken contract is refused (R168, R173), which is the spec's decision D14 (log entry 18). -/
def Obligations.SentFramesCarryConfiguredAddresses : Prop :=
  ∀ (s t : State), step s = .next t →
    t.out.writes = s.out.writes ∨
    ∃ f h pkt, t.out.writes = s.out.writes ++ [h.toList ++ pkt] ∧ f.length ≤ s.par.mtu ∧
      pkt = s.par.busEncode s.cfg.peerAddr s.cfg.localAddr s.cfg.pec f ∧
      parse s.par h = .ok { magic := s.par.magic, version := s.par.version, length := BitVec.ofNat 16 pkt.length
                            sourceAddr := s.cfg.localAddr, destAddr := s.cfg.peerAddr } ∧
      (BitVec.ofNat 16 pkt.length).toNat = pkt.length

/-! ## RXP -/

/-- R191: the header read at the grain of one byte. A read failure fatal at every count is the spec's decision D27, and
end-of-stream as the only short read its decision D6 (log entry 21). -/
def Obligations.RxHdrTakesOneByte : Prop :=
  ∀ (s : State) (more : List RxAns), s.rx.state = .running → s.rx.phase = .hdr → s.rx.cnt.toNat < 6 →
    (∀ x, s.inp.rxAns = .byte x :: more →
      exec .rxHdr s = .next (((s.setInp { s.inp with rxAns := more }).setOut
        { s.out with inTaken := s.out.inTaken + 1 }).setRx
          { s.rx with hbuf := s.rx.hbuf.set s.rx.cnt.toNat x
                      phase := if s.rx.cnt.toNat + 1 = 6 then .chk else .hdr
                      cnt := if s.rx.cnt.toNat + 1 = 6 then 0 else s.rx.cnt + 1 })) ∧
    (s.inp.rxAns = .eos :: more →
      exec .rxHdr s = .next ((s.setInp { s.inp with rxAns := more }).setRx
        { s.rx with state := .stopped, cause := if s.rx.cnt.toNat = 0 then .cleanEof else .hdrShort })) ∧
    (s.inp.rxAns = .err :: more →
      exec .rxHdr s = .next ((s.setInp { s.inp with rxAns := more }).setRx
        { s.rx with state := .stopped, cause := .hdrReadErr }))

/-- R192: the check of a full header. That a header with both bytes wrong stops with `BAD_MAGIC` is the spec's decision
D8 (log entry 20). -/
def Obligations.RxChkParsesOrStops : Prop :=
  ∀ s : State, s.rx.state = .running → s.rx.phase = .chk →
    (s.rx.hbuf.b0 ≠ s.par.magic →
      exec .rxChk s = .next (s.setRx { s.rx with state := .stopped, cause := .badMagic })) ∧
    (s.rx.hbuf.b0 = s.par.magic → s.rx.hbuf.b1 ≠ s.par.version →
      exec .rxChk s = .next (s.setRx { s.rx with state := .stopped, cause := .badVersion })) ∧
    (s.rx.hbuf.b0 = s.par.magic → s.rx.hbuf.b1 = s.par.version →
      exec .rxChk s = .next (s.setRx { s.rx with
        len := s.rx.hbuf.length, src := s.rx.hbuf.b4, dst := s.rx.hbuf.b5, phase := .pay, cnt := 0 }))

/-- R193, R203: the payload read at the grain of one byte. That with `rx_len = 0` no byte is taken is the spec's decision
D7 (log entry 22). -/
def Obligations.RxPayTakesOneByte : Prop :=
  ∀ (s : State) (more : List RxAns), s.rx.state = .running → s.rx.phase = .pay →
    (s.rx.len = 0 → exec .rxPay s = .next (s.setRx { s.rx with phase := .flt, cnt := 0 })) ∧
    (s.rx.cnt.toNat < s.rx.len.toNat →
      (∀ x, s.inp.rxAns = .byte x :: more →
        exec .rxPay s = .next (((s.setInp { s.inp with rxAns := more }).setOut
          { s.out with inTaken := s.out.inTaken + 1 }).setRx
            { s.rx with pbuf := s.rx.pbuf.take s.rx.cnt.toNat ++ [x]
                        phase := if s.rx.cnt.toNat + 1 = s.rx.len.toNat then .flt else .pay
                        cnt := if s.rx.cnt.toNat + 1 = s.rx.len.toNat then 0 else s.rx.cnt + 1 })) ∧
      (s.inp.rxAns = .eos :: more →
        exec .rxPay s = .next ((s.setInp { s.inp with rxAns := more }).setRx
          { s.rx with state := .stopped, cause := .payShort })) ∧
      (s.inp.rxAns = .err :: more →
        exec .rxPay s = .next ((s.setInp { s.inp with rxAns := more }).setRx
          { s.rx with state := .stopped, cause := .payReadErr })))

/-- R194: the frame-level address filter. Comparing all eight bits for equality is the spec's decision D23 (log
entry 24). -/
def Obligations.RxFltDropsForeignFrames : Prop :=
  ∀ s : State, s.rx.state = .running → s.rx.phase = .flt →
    (s.rx.dst = s.cfg.localAddr → exec .rxFlt s = .next (s.setRx { s.rx with phase := .dec })) ∧
    (s.rx.dst ≠ s.cfg.localAddr →
      exec .rxFlt s = .next ((s.setOut { s.out with log := s.out.log ++ [.dropFrameDest] }).setRx
        { s.rx with phase := .hdr, cnt := 0 }))

/-- R195: the codec judges exactly the first `rx_len` bytes of the buffer. -/
def Obligations.RxDecDecodesThePayload : Prop :=
  ∀ s : State, s.rx.state = .running → s.rx.phase = .dec →
    (∀ d, s.par.busDecode s.cfg.pec (s.rx.pbuf.take s.rx.len.toNat) = some d →
      exec .rxDec s = .next (s.setRx { s.rx with frag := d.frag, bdst := d.bdst, phase := .rck })) ∧
    (s.par.busDecode s.cfg.pec (s.rx.pbuf.take s.rx.len.toNat) = none →
      exec .rxDec s = .next ((s.setOut { s.out with log := s.out.log ++ [.decodeFail] }).setRx
        { s.rx with phase := .hdr, cnt := 0 }))

/-- R196: the bus-level address re-check. Comparing all eight bits for equality, in the form the codec gives the address,
is the spec's decision D23 (log entry 24). -/
def Obligations.RxRckDropsForeignPackets : Prop :=
  ∀ s : State, s.rx.state = .running → s.rx.phase = .rck →
    (s.rx.bdst = s.cfg.localAddr → exec .rxRck s = .next (s.setRx { s.rx with phase := .dlv })) ∧
    (s.rx.bdst ≠ s.cfg.localAddr →
      exec .rxRck s = .next ((s.setOut { s.out with log := s.out.log ++ [.dropBusDest] }).setRx
        { s.rx with phase := .hdr, cnt := 0 }))

/-- R197: exactly one `Inbound` call, and the next frame whatever the engine answers; an error is logged. -/
def Obligations.RxDlvDeliversOnce : Prop :=
  ∀ (s : State) (more : List InbAns), s.rx.state = .running → s.rx.phase = .dlv →
    (s.inp.inbAns = .ok :: more →
      exec .rxDlv s = .next (((s.setInp { s.inp with inbAns := more }).setOut
        { s.out with deliveries := s.out.deliveries ++ [s.rx.frag] }).setRx
          { s.rx with phase := .hdr, cnt := 0 })) ∧
    ∀ e, s.inp.inbAns = .err e :: more →
      exec .rxDlv s = .next (((s.setInp { s.inp with inbAns := more }).setOut
        { s.out with deliveries := s.out.deliveries ++ [s.rx.frag], log := s.out.log ++ [.engineErr e] }).setRx
          { s.rx with phase := .hdr, cnt := 0 })

/-- R113, R115, R192: a whole header that comes in at a frame boundary is kept and checked; the legal one starts the
payload read, the other two stop the receiver. That a wire row is the fused read and check is the model's DESIGN
CHOICE (log entry 16); `BAD_MAGIC` whatever the version is the spec's decision D8 (log entry 20). -/
def Obligations.WireHeadersAreCheckedWhole : Prop :=
  ∀ (s : State), s.atBoundary = true →
    (∀ len src dst, exec (.frame len src dst) s = .next (s.setRx { s.rx with
      hbuf := serialize s.par len src dst, len := len, src := src, dst := dst, phase := .pay, cnt := 0 })) ∧
    (∀ m v len src dst, WellFormed s.par (.frameBadMagic m v len src dst) = true →
      exec (.frameBadMagic m v len src dst) s = .next (s.setRx { s.rx with
        hbuf := Hdr6.ofFields m v len src dst, phase := .chk, state := .stopped, cause := .badMagic })) ∧
    ∀ v len src dst, WellFormed s.par (.frameBadVersion v len src dst) = true →
      exec (.frameBadVersion v len src dst) s = .next (s.setRx { s.rx with
        hbuf := Hdr6.ofFields s.par.magic v len src dst, phase := .chk, state := .stopped, cause := .badVersion })

/-- R26, R191, R192: taking a whole header in one turn is the same as taking its six bytes in six turns and then
checking it. The fused turn is the model's DESIGN CHOICE (log entry 16). -/
def Obligations.WholeHeaderTurnEqualsByteTurns : Prop :=
  ∀ (s : State) (h : Hdr6) (more : List RxAns) (script : List Stimulus), s.atBoundary = true →
    s.inp.rxAns = h.toList.map RxAns.byte ++ more →
    runSteps 7 (s.setInp { s.inp with script := List.replicate 7 Stimulus.rxp ++ script }) =
      runSteps 1 (s.setInp { s.inp with script := .rxpHeader :: script })

/-- R50, R64: a unit whose request has no answer makes no step; R199: nor does a stopped receiver. Answers that wait in
queues are the model's DESIGN CHOICE (log entry 8); that `tx_state` is `IDLE` while `FragStart` waits is read from the
order of R160's pseudocode (log entry 35, DEDUCED). -/
def Obligations.WaitingUnitsStayAsTheyAre : Prop :=
  ∀ s : State,
    (s.rx.state = .running → s.rx.phase = .hdr → s.rx.cnt.toNat < 6 → s.inp.rxAns = [] → exec .rxHdr s = .next s) ∧
    (s.rx.state = .running → s.rx.phase = .pay → s.rx.cnt.toNat < s.rx.len.toNat → s.inp.rxAns = [] →
      exec .rxPay s = .next s) ∧
    (s.rx.state = .running → s.rx.phase = .dlv → s.inp.inbAns = [] → exec .rxDlv s = .next s) ∧
    (∀ msg, s.tx.state = .idle → s.tx.starting = some msg → s.inp.startAns = [] → exec (.txSend [msg]) s = .next s) ∧
    (s.tx.state = .busy → s.tx.pend = .none → s.inp.fragAns = [] → exec .txPull s = .next s) ∧
    (∀ f, s.tx.state = .busy → s.tx.pend = .writing → s.inp.writeAns = [] → exec (.txFrag f) s = .next s) ∧
    (s.rx.state = .stopped → ∀ i, isRxOp i = true → exec i s = .next s)

/-- R20, R90: whatever RXP does, TXF, its ports and the configuration stay, and what was delivered or logged before
stays delivered and logged. -/
def Obligations.RxpLeavesTheRestUnchanged : Prop :=
  ∀ (i : Instr) (s t : State), isRxOp i = true → exec i s = .next t → RxKeeps s t

/-- R200: no operation of RXP looks at the peer address or at the header's `source_addr`: two states that differ in
those two only go on to two states that differ in those two only, and so do two headers that differ in their source
only. That the source is not checked is the spec's decision D20, derived from the steps it lists (log entry 24). -/
def Obligations.ReceiverIgnoresPeerAndSource : Prop :=
  ∀ s s' : State, blindRx s = blindRx s' →
    (∀ (i : Instr) (t : State), isRxOp i = true → exec i s = .next t →
      ∃ t', exec i s' = .next t' ∧ blindRx t = blindRx t') ∧
    ∀ (m v : Byte) (len : Len) (src src' dst : Byte),
      (∃ t t', exec (.frame len src dst) s = .next t ∧ exec (.frame len src' dst) s' = .next t' ∧
        blindRx t = blindRx t') ∧
      (∃ t t', exec (.frameBadMagic m v len src dst) s = .next t ∧
        exec (.frameBadMagic m v len src' dst) s' = .next t' ∧ blindRx t = blindRx t') ∧
      ∃ t t', exec (.frameBadVersion v len src dst) s = .next t ∧
        exec (.frameBadVersion v len src' dst) s' = .next t' ∧ blindRx t = blindRx t'

/-- R199: once `STOPPED`, nothing but reset changes a register of RXP, and nothing more is read, delivered or logged. -/
def Obligations.StoppedReceiverTakesNoStep : Prop :=
  ∀ (s t : State) (ev : Stimulus) (script : List Stimulus), s.rx.state = .stopped →
    s.inp.script = ev :: script → ev ≠ .rst → step s = .next t →
    t.rx = s.rx ∧ t.out.inTaken = s.out.inTaken ∧ t.out.deliveries = s.out.deliveries ∧ t.out.log = s.out.log ∧
    s.inp.rxAns <+: t.inp.rxAns

/-- R198: RXP leaves `RUNNING` only in `RX.HDR`, `RX.CHK` and `RX.PAY` (or the fused header), with the causes of those
steps, and the stop changes no other register of the step that meets it. The fourth case is the fused turn, the model's
DESIGN CHOICE (log entry 16); `BAD_MAGIC` before `BAD_VERSION` is the spec's decision D8 (log entry 20). -/
def Obligations.ReceiverStopsOnlyForListedCauses : Prop :=
  ∀ (s t : State), step s = .next t → s.rx.state = .running → t.rx.state = .stopped →
    (s.rx.phase = .hdr ∧ (s.stoppedAs t .cleanEof ∧ s.rx.cnt.toNat = 0 ∨ s.stoppedAs t .hdrShort ∧ s.rx.cnt.toNat ≠ 0 ∨
      s.stoppedAs t .hdrReadErr)) ∨
    (s.rx.phase = .chk ∧ (s.stoppedAs t .badMagic ∧ s.rx.hbuf.b0 ≠ s.par.magic ∨
      s.stoppedAs t .badVersion ∧ s.rx.hbuf.b0 = s.par.magic ∧ s.rx.hbuf.b1 ≠ s.par.version)) ∨
    (s.rx.phase = .pay ∧ (s.stoppedAs t .payShort ∨ s.stoppedAs t .payReadErr)) ∨
    (s.atBoundary = true ∧ ∃ h : Hdr6, h.toList.map RxAns.byte <+: s.inp.rxAns ∧
      t.rx = { s.rx with hbuf := h, phase := .chk, state := .stopped, cause := t.rx.cause } ∧
      (t.rx.cause = .badMagic ∧ h.b0 ≠ s.par.magic ∨
        t.rx.cause = .badVersion ∧ h.b0 = s.par.magic ∧ h.b1 ≠ s.par.version))

/-- R205, R97, R237: one iteration of RXP on a whole frame with a legal header takes exactly its bytes and comes to
what the three checks say, in their order; the fragment is delivered exactly when all three pass. Turns are the
model's DESIGN CHOICE (log entries 9 and 10); no byte for length 0 and all eight bits of an address compared are the
spec's decisions D7 and D23 (log entries 22 and 24). -/
def Obligations.OneFrameComesToItsVerdict : Prop :=
  ∀ (s : State) (f : InFrame) (more : List RxAns) (a : InbAns) (as : List InbAns) (script : List Stimulus),
    s.atBoundary = true → f.exact → s.inp.rxAns = (f.bytes s.par).map RxAns.byte ++ more → s.inp.inbAns = a :: as →
    s.inp.script = List.replicate (f.turns s.par s.cfg) Stimulus.rxp ++ script →
    ∃ t, runSteps (f.turns s.par s.cfg) s = .next t ∧ t.atBoundary = true ∧
      t.rx.cause = s.rx.cause ∧
      t.out.inTaken = s.out.inTaken + 6 + f.len.toNat ∧
      t.out.deliveries = s.out.deliveries ++ (f.verdict s.par s.cfg).deliveries ∧
      t.out.log = s.out.log ++ (f.verdict s.par s.cfg).log a ∧
      t.inp = { s.inp with rxAns := more, inbAns := (f.verdict s.par s.cfg).answersLeft (a :: as), script := script } ∧
      t.tx = s.tx ∧ t.cfg = s.cfg ∧ t.par = s.par ∧ t.out.outStream = s.out.outStream

/-- R206, first half, with R202: on a stream of whole legal frames followed by end-of-stream, RXP handles every
frame, delivers the accepted ones and logs the others in stream order, and ends `STOPPED` with `CLEAN_EOF`. Turns are
the model's DESIGN CHOICE (log entries 9 and 10); length 0, any number of decode failures and address equality are the
spec's decisions D7, D15 and D23 (log entries 22, 23 and 24). -/
def Obligations.CleanCloseAfterWholeFrames : Prop :=
  ∀ (s : State) (fs : List InFrame) (more : List RxAns), s.atBoundary = true → (∀ f ∈ fs, f.exact) →
    fs.length ≤ s.inp.inbAns.length →
    s.inp.rxAns = (fs.map (fun f => (f.bytes s.par).map RxAns.byte)).flatten ++ RxAns.eos :: more →
    ∀ n script, n = (fs.map (fun f => f.turns s.par s.cfg)).sum + 1 → s.inp.script = List.replicate n Stimulus.rxp ++ script →
      ∃ t, runSteps n s = .next t ∧ t.stoppedFor .cleanEof ∧ t.inp.rxAns = more ∧ t.inp.script = script ∧
        t.out.deliveries = s.out.deliveries ++ (fs.map (fun f => (f.verdict s.par s.cfg).deliveries)).flatten ∧
        t.out.log = s.out.log ++ logOfFrames s.par s.cfg fs s.inp.inbAns ∧ t.tx = s.tx

/-- R206, second half: end-of-stream inside a header stops RXP with `HDR_SHORT`, after a legal header and before its
payload is whole with `PAY_SHORT`; nothing of the broken frame is delivered or logged. Turns are the model's DESIGN
CHOICE (log entries 9 and 10); what a short read is is the spec's decision D6 (log entry 21). -/
def Obligations.MidFrameCloseIsFatal : Prop :=
  ∀ (s : State) (bs : Bytes) (more : List RxAns) (script : List Stimulus), s.atBoundary = true →
    s.inp.rxAns = bs.map RxAns.byte ++ RxAns.eos :: more →
    (1 ≤ bs.length → bs.length ≤ 5 → s.inp.script = List.replicate (bs.length + 1) Stimulus.rxp ++ script →
      ∃ t, runSteps (bs.length + 1) s = .next t ∧ t.stoppedFor .hdrShort ∧
        t.rx.cnt.toNat = bs.length ∧ t.out.deliveries = s.out.deliveries ∧ t.out.log = s.out.log) ∧
    (∀ len src dst pay, bs = (serialize s.par len src dst).toList ++ pay → pay.length < len.toNat →
      s.inp.script = List.replicate (bs.length + 2) Stimulus.rxp ++ script →
      ∃ t, runSteps (bs.length + 2) s = .next t ∧ t.stoppedFor .payShort ∧
        t.rx.cnt.toNat = pay.length ∧ t.out.deliveries = s.out.deliveries ∧ t.out.log = s.out.log)

/-- R33 (b), R205, only if: whatever a step of a sound state delivers is the decoded fragment of a frame whose header is
legal and addressed to this node and whose packet is for this node; and a step delivers at most one (R202). -/
def Obligations.DeliveredFramesPassedEveryCheck : Prop :=
  ∀ (s t : State), s.Wf → step s = .next t →
    t.out.deliveries = s.out.deliveries ∨
    (t.out.deliveries = s.out.deliveries ++ [s.rx.frag] ∧
      parse s.par s.rx.hbuf = .ok (s.rx.header s.par) ∧ s.rx.dst = s.cfg.localAddr ∧
      s.rx.len.toNat ≤ s.rx.pbuf.length ∧
      s.par.busDecode s.cfg.pec (s.rx.pbuf.take s.rx.len.toNat) =
        some { frag := s.rx.frag, bdst := s.cfg.localAddr })

/-! ## The machine -/

/-- R117, R118: the instruction placed by a table row's word is the one the next step runs, from a state that has
exactly what selects it: for a number 0 to 13 the operation that has it, for six bytes the header class they decode to,
with those bytes taken from the inbound stream. Placing, and a label's operands at zero, are the model's DESIGN CHOICE
(log entries 9 and 17). -/
def Obligations.StepRunsThePlacedInstruction : Prop :=
  ∀ s : State,
    (step (s.withFetchWord 8 0) = exec (.hdrSerialize 0 0 0) s ∧
      step (s.withFetchWord 8 1) = exec (.hdrParse ⟨0, 0, 0, 0, 0, 0⟩) s) ∧
    step (s.withFetchWord 8 2) = exec (.txSend [[]])
      ((s.setTx { s.tx with state := .idle, pend := .none, starting := none }).setInp
        { s.inp with startAns := { handle := 0 } :: s.inp.startAns }) ∧
    step (s.withFetchWord 8 3) = exec .txPull
      ((s.setTx { s.tx with state := .busy, pend := .none, sent := 0, starting := none }).setInp
        { s.inp with fragAns := .packet [] :: s.inp.fragAns }) ∧
    step (s.withFetchWord 8 4) = exec (.txFrag [])
      ((s.setTx { s.tx with state := .busy, pend := .packet, frag := [], sent := 0, starting := none }).setInp
        { s.inp with writeAns := .ok :: s.inp.writeAns }) ∧
    step (s.withFetchWord 8 5) =
      exec (.txDone ⟨0⟩) (s.setTx { s.tx with state := .busy, pend := .complete ⟨0⟩, sent := 0, starting := none }) ∧
    step (s.withFetchWord 8 6) =
      exec (.txFerr ⟨0⟩) (s.setTx { s.tx with state := .busy, pend := .error ⟨0⟩, sent := 0, starting := none }) ∧
    (∀ ph : RxPhase, ∃ u, step (s.withFetchWord 8 (7 + ph.code.toNat)) = exec (match ph with
        | .hdr => .rxHdr | .chk => .rxChk | .pay => .rxPay | .flt => .rxFlt
        | .dec => .rxDec | .rck => .rxRck | .dlv => .rxDlv) u ∧
      u.rx = { s.rx with state := .running, cause := .none, phase := ph, cnt := 0 } ∧
      u.tx = s.tx ∧ u.cfg = s.cfg ∧ u.par = s.par ∧ u.out = s.out ∧ u.inp.script = s.inp.script) ∧
    ∀ h : Hdr6, ∃ i, decode s.par .hdr6 h.toList = .ok (i, []) ∧
      step (s.withFetchWord 48 h.word.toNat) =
        exec i ((s.setRx { s.rx with state := .running, cause := .none, phase := .hdr, cnt := 0 }).setOut
          { s.out with inTaken := s.out.inTaken + 6 })

/-- R84, R113: when six bytes stand at the front of the inbound stream at a frame boundary, the turn that takes a
whole header runs the instruction those bytes decode to, from the state in which they are taken. The whole-header
turn is the model's DESIGN CHOICE (log entries 9 and 16). -/
def Obligations.StepRunsTheDecodedHeader : Prop :=
  ∀ (s : State) (h : Hdr6) (more : List RxAns) (script : List Stimulus) (i : Instr), s.atBoundary = true →
    s.inp.script = .rxpHeader :: script → s.inp.rxAns = h.toList.map RxAns.byte ++ more →
    decode s.par .hdr6 h.toList = .ok (i, []) →
    step s = exec i ((s.setInp { s.inp with script := script, rxAns := more }).setOut
      { s.out with inTaken := s.out.inTaken + 6 })

/-- R26, R117: which operation a turn makes happen: RXP's by its phase, also where a whole header could be taken but does
not stand at a frame boundary; TXF's by what is pending; a call on HDR is that call; and an agent with nothing enabled
does nothing. R50, R64, R160: while `FragStart` of a message waits for its answer, TXF's turn is `TX.SEND` of that
message; that `tx_state` is still `IDLE` then is read from the order of R160's pseudocode (log entry 35, DEDUCED), and
the field that holds the message is the model's own (log entry 7). Script entries are the model's DESIGN CHOICE (log
entries 9 and 16). -/
def Obligations.SequencingRegistersSelect : Prop :=
  ∀ s : State,
    (s.rx.state = .running → ∀ script, (s.inp.script = .rxp :: script ∨ s.inp.script = .rxpHeader :: script ∧
        (s.atBoundary = false ∨ ∀ (h : Hdr6) (more : List RxAns), s.inp.rxAns ≠ h.toList.map RxAns.byte ++ more)) →
      step s = exec (match s.rx.phase with
        | .hdr => .rxHdr | .chk => .rxChk | .pay => .rxPay | .flt => .rxFlt
        | .dec => .rxDec | .rck => .rxRck | .dlv => .rxDlv) (s.setInp { s.inp with script := script })) ∧
    (s.tx.state = .busy → ∀ script, s.inp.script = .tx :: script →
      step s = exec (match s.tx.pend with
        | .none => .txPull | .packet => .txFrag s.tx.frag | .writing => .txFrag s.tx.frag
        | .complete tag => .txDone tag | .error e => .txFerr e) (s.setInp { s.inp with script := script })) ∧
    (∀ msg, s.tx.state = .idle → s.tx.starting = some msg → ∀ script, s.inp.script = .tx :: script →
      step s = exec (.txSend [msg]) (s.setInp { s.inp with script := script })) ∧
    (∀ (c : HdrCall) (script : List Stimulus), s.inp.script = .hdr c :: script →
      step s = exec (match c with
        | .serialize len src dst => .hdrSerialize len src dst
        | .parse b => .hdrParse b) (s.setInp { s.inp with script := script })) ∧
    (∀ script, (s.tx.state = .idle ∧ s.tx.starting = none ∧ s.inp.sendReqs = [] ∧ s.inp.script = .tx :: script ∨
        s.rx.state = .stopped ∧ (s.inp.script = .rxp :: script ∨ s.inp.script = .rxpHeader :: script)) →
      step s = .next (s.setInp { s.inp with script := script }))

/-- R50, R170, R239: an arrival at a port goes behind what waits there and changes no register of the block. Waiting
answers as queues are the model's DESIGN CHOICE (log entry 8). -/
def Obligations.ArrivalsOnlyQueueAtTheirPort : Prop :=
  ∀ (s : State) (ev : Stimulus) (script : List Stimulus), s.inp.script = ev :: script →
    (∀ m, ev = .send m → step s = .next (s.setInp { s.inp with script := script, sendReqs := s.inp.sendReqs ++ [m] })) ∧
    (∀ p, ev = .start p → step s = .next (s.setInp { s.inp with script := script, startAns := s.inp.startAns ++ [p] })) ∧
    (∀ a, ev = .frag a → step s = .next (s.setInp { s.inp with script := script, fragAns := s.inp.fragAns ++ [a] })) ∧
    (∀ a, ev = .write a → step s = .next (s.setInp { s.inp with script := script, writeAns := s.inp.writeAns ++ [a] })) ∧
    (∀ a, ev = .rx a → step s = .next (s.setInp { s.inp with script := script, rxAns := s.inp.rxAns ++ [a] })) ∧
    (∀ a, ev = .inbound a → step s = .next (s.setInp { s.inp with script := script, inbAns := s.inp.inbAns ++ [a] })) ∧
    ∀ p, ev = .cfg p → step s = .next (s.setInp { s.inp with script := script, cfgPort := p })

/-- R31, R61, R271: what RST leaves: the configuration from the CFG port, RXP `RUNNING` in `HDR` with count 0 and
cause `NONE`, TXF `IDLE` with no response given, both streams at their start. That answers given and not taken are
lost is the model's DESIGN CHOICE (log entry 14). -/
def Obligations.ResetStartsANewConnection : Prop :=
  ∀ (s : State) (script : List Stimulus), s.inp.script = .rst :: script →
    ∃ t, step s = .next t ∧
      t.cfg = { localAddr := s.inp.cfgPort.localAddr, peerAddr := s.inp.cfgPort.peerAddr, pec := s.inp.cfgPort.pec } ∧
      t.par = s.par ∧ t.rx.state = .running ∧ t.rx.phase = .hdr ∧ t.rx.cnt = 0 ∧ t.rx.cause = .none ∧
      t.tx.state = .idle ∧ t.tx.pend = .none ∧ t.tx.starting = none ∧ t.out.sendResults = s.out.sendResults ∧
      t.out.outStream = [] ∧ t.out.inTaken = 0 ∧ t.inp.rxAns = []

/-- R31: the state after the first reset. -/
def Obligations.ResetStateValues : Prop :=
  (State.reset.rx.state = .running ∧ State.reset.rx.phase = .hdr ∧ State.reset.rx.cnt = 0 ∧
    State.reset.rx.cause = .none ∧ State.reset.tx.state = .idle) ∧
  State.reset.cfg = { localAddr := State.reset.inp.cfgPort.localAddr, peerAddr := State.reset.inp.cfgPort.peerAddr
                      pec := State.reset.inp.cfgPort.pec } ∧
  (State.reset.par.magic = Config.magic ∧ State.reset.par.version = Config.version) ∧
  (State.reset.out.outStream = [] ∧ State.reset.out.inTaken = 0)

/-- The invariant holds after reset. The invariant is the model's own. -/
def Obligations.ResetStateIsWf : Prop := State.reset.Wf

/-- Every step of the machine keeps the invariant. The invariant is the model's own; its clauses cite the rules they
come from. The bounds of `tx_frag` and `tx_pkt` hold with no premise on the producer or the codec because a broken
contract is refused (D14, log entry 18); count 0 with `rx_len` 0 is D7 (log entry 22), the addresses' equality D23 (log
entry 24), and `FragStart` waiting only in `IDLE` log entry 35. -/
def Obligations.StepKeepsWf : Prop := ∀ (s t : State), s.Wf → step s = .next t → t.Wf

/-- R21, R22, R51, R239: the two constants and the other parameters never change, and nothing but reset writes a
configuration register. The constants' values are OPEN (log entry 1), the CFG port's the owner's (log entry 29). -/
def Obligations.ConfigurationChangesOnlyAtReset : Prop :=
  ∀ (s t : State), step s = .next t →
    t.par = s.par ∧ (t.cfg = s.cfg ∨ ∃ script, s.inp.script = .rst :: script ∧
      t.cfg = { localAddr := s.inp.cfgPort.localAddr, peerAddr := s.inp.cfgPort.peerAddr, pec := s.inp.cfgPort.pec })

/-- R80, R85: until reset, what is in the outbound stream stays there, and what was taken from the inbound stream stays
taken: a step takes some bytes from its front and counts them, or takes the end or the failure that stops RXP, or
takes nothing, and then more may arrive behind. The streams as parts of State are the model's DESIGN CHOICE (log entries 8
and 28). -/
def Obligations.StreamsAreNeverRewound : Prop :=
  ∀ (s t : State) (ev : Stimulus) (script : List Stimulus), s.inp.script = ev :: script → ev ≠ .rst →
    step s = .next t →
    s.out.outStream <+: t.out.outStream ∧
    ((∃ bs : Bytes, s.inp.rxAns = bs.map RxAns.byte ++ t.inp.rxAns ∧ t.out.inTaken = s.out.inTaken + bs.length) ∨
     (∃ a, (a = .eos ∨ a = .err) ∧ s.inp.rxAns = a :: t.inp.rxAns ∧ t.out.inTaken = s.out.inTaken ∧
        t.rx.state = .stopped) ∨
     (∃ a, ev = .rx a ∧ t.inp.rxAns = s.inp.rxAns ++ [a] ∧ t.out.inTaken = s.out.inTaken))

/-- R89, R90: an operation of TXF and one of RXP may be taken in either order: what the one order can come to, the other
comes to. -/
def Obligations.TransmitAndReceiveCommute : Prop :=
  ∀ (i j : Instr) (s t : State), isTxOp i = true → isRxOp j = true →
    ((∃ s1, exec i s = .next s1 ∧ exec j s1 = .next t) ↔ ∃ s2, exec j s = .next s2 ∧ exec i s2 = .next t)

/-- R10, R53, R54: while the producer and the codec keep their contracts, a step is never refused. What is refused is the
spec's decision D14 (log entry 18). -/
def Obligations.NoRefusalWhileContractsHold : Prop :=
  ∀ s : State, s.Wf → (∀ f, FragAns.packet f ∈ s.inp.fragAns → f.length ≤ s.par.mtu) →
    (s.tx.pend = .packet → (s.par.busEncode s.cfg.peerAddr s.cfg.localAddr s.cfg.pec s.tx.frag).length ≤ 65535) →
    ∃ t, step s = .next t

/-- R26, R117: an operation that its registers do not select does not happen. That it answers the unchanged state is
the model's DESIGN CHOICE (log entry 12). -/
def Obligations.UnselectedOperationsDoNothing : Prop :=
  ∀ s : State,
    (∀ ph, ¬(s.rx.state = .running ∧ s.rx.phase = ph) → exec (phaseInstr ph) s = .next s) ∧
    (s.tx.state = .idle → ∀ i, isTxOp i = true → (∀ m, i ≠ .txSend m) → exec i s = .next s) ∧
    (s.tx.pend ≠ .none → exec .txPull s = .next s) ∧
    (s.tx.pend ≠ .packet → s.tx.pend ≠ .writing → ∀ f, exec (.txFrag f) s = .next s) ∧
    ((∀ tag, s.tx.pend ≠ .complete tag) → ∀ tag, exec (.txDone tag) s = .next s) ∧
    ((∀ e, s.tx.pend ≠ .error e) → ∀ e, exec (.txFerr e) s = .next s) ∧
    (s.atBoundary = false → ∀ (m v : Byte) (len : Len) (src dst : Byte),
      exec (.frame len src dst) s = .next s ∧ exec (.frameBadMagic m v len src dst) s = .next s ∧
      exec (.frameBadVersion v len src dst) s = .next s)
end

