-- ==== Sys2Proof/Laws/Header.lean ====
section
/-! SUPPORT. The fields of a header: splitting and joining `length`. -/

namespace Sys2Proof

/-- Joining the two bytes of a length gives it back (R112, R145). -/
@[simp] theorem lenJoin_split (l : Len) : lenJoin (lenLow l) (lenHigh l) = l := by
  apply BitVec.eq_of_toNat_eq
  have := l.isLt
  simp [lenJoin, lenLow, lenHigh, BitVec.toNat_mul, Nat.shiftRight_eq_div_pow]
  omega

@[simp] theorem lenLow_join (lo hi : Byte) : lenLow (lenJoin lo hi) = lo := by
  apply BitVec.eq_of_toNat_eq
  have := lo.isLt
  have := hi.isLt
  simp [lenJoin, lenLow, BitVec.toNat_mul]
  omega

@[simp] theorem lenHigh_join (lo hi : Byte) : lenHigh (lenJoin lo hi) = hi := by
  apply BitVec.eq_of_toNat_eq
  have := lo.isLt
  have := hi.isLt
  simp [lenJoin, lenHigh, BitVec.toNat_mul, Nat.shiftRight_eq_div_pow]
  omega

@[simp] theorem Hdr6.ofFields_length (m v : Byte) (len : Len) (src dst : Byte) :
    (Hdr6.ofFields m v len src dst).length = len := lenJoin_split len

/-- A header is its fields laid out. -/
theorem Hdr6.ofFields_self (h : Hdr6) : Hdr6.ofFields h.b0 h.b1 h.length h.b4 h.b5 = h := by
  cases h
  simp [Hdr6.ofFields, Hdr6.length]

@[simp] theorem Hdr6.toList_length (h : Hdr6) : h.toList.length = 6 := rfl

/-- The header word loses nothing of the six bytes (R7, R111). -/
theorem Hdr6.ofWord_word (h : Hdr6) : Hdr6.ofWord h.word = h := by
  cases h
  simp only [Hdr6.ofWord, Hdr6.word, Hdr6.mk.injEq]
  refine ⟨?_, ?_, ?_, ?_, ?_, ?_⟩ <;> apply BitVec.eq_of_getLsbD_eq <;> intro i hi <;> simp <;>
    rcases (by omega : i = 0 ∨ i = 1 ∨ i = 2 ∨ i = 3 ∨ i = 4 ∨ i = 5 ∨ i = 6 ∨ i = 7) with
      h | h | h | h | h | h | h | h <;> subst h <;> simp

/-- Writing byte 4 of a header and any byte of it: the other bytes are the same in either order. -/
theorem Hdr6.set_four_set (h : Hdr6) (x y : Byte) (k : Nat) : ∃ z, (h.set 4 x).set k y = (h.set k y).set 4 z := by
  match k with
  | 0 | 1 | 2 | 3 | 5 => exact ⟨x, rfl⟩
  | 4 => exact ⟨y, rfl⟩
  | _ + 6 => exact ⟨x, rfl⟩

/-- A size that fits 16 bits is not cut (R145, R173). -/
theorem ofNat16_toNat {n : Nat} (h : n ≤ payMax) : (BitVec.ofNat 16 n).toNat = n := by
  simp [payMax] at h ⊢
  omega

end Sys2Proof
end

