-- ==== Sys2Proof/Laws/State.lean ====
section
/-! SUPPORT. One lemma per field per update of State, so that no later proof unfolds an update. -/

namespace Sys2Proof.Machine

@[simp] theorem State.setCfg_par (s : State) (c : CfgRegs) : (s.setCfg c).par = s.par := rfl
@[simp] theorem State.setCfg_cfg (s : State) (c : CfgRegs) : (s.setCfg c).cfg = c := rfl
@[simp] theorem State.setCfg_tx (s : State) (c : CfgRegs) : (s.setCfg c).tx = s.tx := rfl
@[simp] theorem State.setCfg_rx (s : State) (c : CfgRegs) : (s.setCfg c).rx = s.rx := rfl
@[simp] theorem State.setCfg_inp (s : State) (c : CfgRegs) : (s.setCfg c).inp = s.inp := rfl
@[simp] theorem State.setCfg_out (s : State) (c : CfgRegs) : (s.setCfg c).out = s.out := rfl
@[simp] theorem State.setCfg_draws (s : State) (c : CfgRegs) : (s.setCfg c).draws = s.draws := rfl
@[simp] theorem State.setCfg_setCfg (s : State) (x y : CfgRegs) : (s.setCfg x).setCfg y = s.setCfg y := rfl

@[simp] theorem State.setTx_par (s : State) (r : TxRegs) : (s.setTx r).par = s.par := rfl
@[simp] theorem State.setTx_cfg (s : State) (r : TxRegs) : (s.setTx r).cfg = s.cfg := rfl
@[simp] theorem State.setTx_tx (s : State) (r : TxRegs) : (s.setTx r).tx = r := rfl
@[simp] theorem State.setTx_rx (s : State) (r : TxRegs) : (s.setTx r).rx = s.rx := rfl
@[simp] theorem State.setTx_inp (s : State) (r : TxRegs) : (s.setTx r).inp = s.inp := rfl
@[simp] theorem State.setTx_out (s : State) (r : TxRegs) : (s.setTx r).out = s.out := rfl
@[simp] theorem State.setTx_draws (s : State) (r : TxRegs) : (s.setTx r).draws = s.draws := rfl
@[simp] theorem State.setTx_setTx (s : State) (x y : TxRegs) : (s.setTx x).setTx y = s.setTx y := rfl

@[simp] theorem State.setRx_par (s : State) (r : RxRegs) : (s.setRx r).par = s.par := rfl
@[simp] theorem State.setRx_cfg (s : State) (r : RxRegs) : (s.setRx r).cfg = s.cfg := rfl
@[simp] theorem State.setRx_tx (s : State) (r : RxRegs) : (s.setRx r).tx = s.tx := rfl
@[simp] theorem State.setRx_rx (s : State) (r : RxRegs) : (s.setRx r).rx = r := rfl
@[simp] theorem State.setRx_inp (s : State) (r : RxRegs) : (s.setRx r).inp = s.inp := rfl
@[simp] theorem State.setRx_out (s : State) (r : RxRegs) : (s.setRx r).out = s.out := rfl
@[simp] theorem State.setRx_draws (s : State) (r : RxRegs) : (s.setRx r).draws = s.draws := rfl
@[simp] theorem State.setRx_setRx (s : State) (x y : RxRegs) : (s.setRx x).setRx y = s.setRx y := rfl

@[simp] theorem State.setInp_par (s : State) (n : Inputs) : (s.setInp n).par = s.par := rfl
@[simp] theorem State.setInp_cfg (s : State) (n : Inputs) : (s.setInp n).cfg = s.cfg := rfl
@[simp] theorem State.setInp_tx (s : State) (n : Inputs) : (s.setInp n).tx = s.tx := rfl
@[simp] theorem State.setInp_rx (s : State) (n : Inputs) : (s.setInp n).rx = s.rx := rfl
@[simp] theorem State.setInp_inp (s : State) (n : Inputs) : (s.setInp n).inp = n := rfl
@[simp] theorem State.setInp_out (s : State) (n : Inputs) : (s.setInp n).out = s.out := rfl
@[simp] theorem State.setInp_draws (s : State) (n : Inputs) : (s.setInp n).draws = s.draws := rfl
@[simp] theorem State.setInp_setInp (s : State) (x y : Inputs) : (s.setInp x).setInp y = s.setInp y := rfl

@[simp] theorem State.setOut_par (s : State) (o : Outputs) : (s.setOut o).par = s.par := rfl
@[simp] theorem State.setOut_cfg (s : State) (o : Outputs) : (s.setOut o).cfg = s.cfg := rfl
@[simp] theorem State.setOut_tx (s : State) (o : Outputs) : (s.setOut o).tx = s.tx := rfl
@[simp] theorem State.setOut_rx (s : State) (o : Outputs) : (s.setOut o).rx = s.rx := rfl
@[simp] theorem State.setOut_inp (s : State) (o : Outputs) : (s.setOut o).inp = s.inp := rfl
@[simp] theorem State.setOut_out (s : State) (o : Outputs) : (s.setOut o).out = o := rfl
@[simp] theorem State.setOut_draws (s : State) (o : Outputs) : (s.setOut o).draws = s.draws := rfl
@[simp] theorem State.setOut_setOut (s : State) (x y : Outputs) : (s.setOut x).setOut y = s.setOut y := rfl

end Sys2Proof.Machine
end

