-- ==== Sys2Proof/Laws/Ops.lean ====
section
/-! SUPPORT. What each shared operation can do, once: cite these and do not unfold the operations. -/

namespace Sys2Proof.Machine

/-! ## Equality of states, part by part -/

theorem State.ext_parts {s t : State} (par : s.par = t.par) (cfg : s.cfg = t.cfg) (tx : s.tx = t.tx)
    (rx : s.rx = t.rx) (inp : s.inp = t.inp) (out : s.out = t.out) (draws : s.draws = t.draws) : s = t := by
  cases s; cases t; simp_all

theorem Inputs.ext_parts {a b : Inputs} (script : a.script = b.script) (cfgPort : a.cfgPort = b.cfgPort)
    (sendReqs : a.sendReqs = b.sendReqs) (startAns : a.startAns = b.startAns) (fragAns : a.fragAns = b.fragAns)
    (writeAns : a.writeAns = b.writeAns) (rxAns : a.rxAns = b.rxAns) (inbAns : a.inbAns = b.inbAns) : a = b := by
  cases a; cases b; simp_all

theorem Outputs.ext_parts {a b : Outputs} (outStream : a.outStream = b.outStream) (inTaken : a.inTaken = b.inTaken)
    (fragStarts : a.fragStarts = b.fragStarts) (fragNexts : a.fragNexts = b.fragNexts) (writes : a.writes = b.writes)
    (deliveries : a.deliveries = b.deliveries) (log : a.log = b.log) (sendResults : a.sendResults = b.sendResults)
    (hdrResults : a.hdrResults = b.hdrResults) : a = b := by
  cases a; cases b; simp_all

/-! ## The frames compose -/

theorem TxKeeps.refl (s : State) : TxKeeps s s := by
  constructor <;> rfl

theorem TxKeeps.trans {s t u : State} (h : TxKeeps s t) (k : TxKeeps t u) : TxKeeps s u := by
  cases h; cases k
  constructor <;> first | (apply List.IsPrefix.trans <;> assumption) | simp_all

theorem RxKeeps.refl (s : State) : RxKeeps s s := by
  constructor <;> rfl

theorem RxKeeps.trans {s t u : State} (h : RxKeeps s t) (k : RxKeeps t u) : RxKeeps s u := by
  cases h; cases k
  constructor <;> first | (apply List.IsPrefix.trans <;> assumption) | simp_all

/-! ## RXP -/

theorem rxAt_iff {s : State} {p : RxPhase} : s.rxAt p = true ↔ s.rx.state = .running ∧ s.rx.phase = p := by
  simp [State.rxAt]

theorem atBoundary_iff {s : State} :
    s.atBoundary = true ↔ s.rx.state = .running ∧ s.rx.phase = .hdr ∧ s.rx.cnt = 0 := by
  simp [State.atBoundary, rxAt_iff, and_assoc]

/-- An enabled step of RXP is its function. -/
theorem atPhase_of {s : State} {p : RxPhase} (f : State → State) (h : s.rx.state = .running) (hp : s.rx.phase = p) :
    atPhase p f s = f s := by
  simp [atPhase, State.rxAt, h, hp]

@[simp] theorem stopRx_rx (c : RxCause) (s : State) :
    (stopRx c s).rx = { s.rx with cause := c, state := .stopped } := rfl

@[simp] theorem nextFrame_rx (s : State) : (nextFrame s).rx = { s.rx with phase := .hdr, cnt := 0 } := rfl

@[simp] theorem dropFrame_rx (e : LogEvent) (s : State) :
    (dropFrame e s).rx = { s.rx with phase := .hdr, cnt := 0 } := rfl

/-- Everything a turn of a read can do (R56): find the count reached, wait, take a byte, stop at the end of the
stream, stop at a failure. -/
theorem readTurn_cases (n : Nat) (next : RxPhase) (store : Byte → RxRegs → RxRegs) (short failed : RxCause)
    (s : State) :
    (n ≤ s.rx.cnt.toNat ∧ readTurn n next store short failed s = s.setRx { s.rx with phase := next, cnt := 0 }) ∨
    (s.rx.cnt.toNat < n ∧ s.inp.rxAns = [] ∧ readTurn n next store short failed s = s) ∨
    (∃ b more, s.rx.cnt.toNat < n ∧ s.inp.rxAns = .byte b :: more ∧
      readTurn n next store short failed s = advanceRead n next
        (((s.setInp { s.inp with rxAns := more }).setOut { s.out with inTaken := s.out.inTaken + 1 }).setRx
          (store b s.rx))) ∨
    (∃ more, s.rx.cnt.toNat < n ∧ s.inp.rxAns = .eos :: more ∧
      readTurn n next store short failed s = stopRx short (s.setInp { s.inp with rxAns := more })) ∨
    (∃ more, s.rx.cnt.toNat < n ∧ s.inp.rxAns = .err :: more ∧
      readTurn n next store short failed s = stopRx failed (s.setInp { s.inp with rxAns := more })) := by
  by_cases hn : n ≤ s.rx.cnt.toNat
  · exact .inl ⟨hn, by simp [readTurn, readNext, hn]⟩
  · have hlt : s.rx.cnt.toNat < n := by omega
    cases h : s.inp.rxAns with
    | nil => exact .inr (.inl ⟨hlt, rfl, by simp [readTurn, readNext, hn, h]⟩)
    | cons a more =>
      cases a with
      | byte b =>
        exact .inr (.inr (.inl ⟨b, more, hlt, rfl, by simp [readTurn, readNext, hn, h, popRx, countTaken]⟩))
      | eos => exact .inr (.inr (.inr (.inl ⟨more, hlt, rfl, by simp [readTurn, readNext, hn, h, popRx]⟩)))
      | err => exact .inr (.inr (.inr (.inr ⟨more, hlt, rfl, by simp [readTurn, readNext, hn, h, popRx]⟩)))

theorem advanceRead_cases (n : Nat) (next : RxPhase) (s : State) :
    (s.rx.cnt.toNat + 1 < n ∧ advanceRead n next s = s.setRx { s.rx with cnt := s.rx.cnt + 1 }) ∨
    (n ≤ s.rx.cnt.toNat + 1 ∧ advanceRead n next s = s.setRx { s.rx with phase := next, cnt := 0 }) := by
  unfold advanceRead
  split
  · exact .inl ⟨‹_›, rfl⟩
  · exact .inr ⟨by omega, rfl⟩

theorem stopRx_keeps (c : RxCause) (s : State) : RxKeeps s (stopRx c s) := by
  constructor <;> rfl

theorem dropFrame_keeps (e : LogEvent) (s : State) : RxKeeps s (dropFrame e s) := by
  constructor <;> first | rfl | exact List.prefix_append _ _

theorem setRx_keeps (r : RxRegs) (s : State) : RxKeeps s (s.setRx r) := by
  constructor <;> rfl

theorem checkHeader_keeps (s : State) : RxKeeps s (checkHeader s) := by
  unfold checkHeader
  split
  · exact stopRx_keeps _ s
  · exact setRx_keeps _ s

theorem readTurn_keeps (n : Nat) (next : RxPhase) (store : Byte → RxRegs → RxRegs) (short failed : RxCause)
    (s : State) : RxKeeps s (readTurn n next store short failed s) := by
  unfold readTurn
  split
  · exact setRx_keeps _ s
  · exact RxKeeps.refl s
  · unfold advanceRead
    split <;> constructor <;> rfl
  · constructor <;> rfl
  · constructor <;> rfl

theorem deliverFragment_keeps (s : State) : RxKeeps s (deliverFragment s) := by
  unfold deliverFragment
  split
  · exact RxKeeps.refl s
  all_goals constructor <;> first | rfl | exact List.prefix_append _ _

/-! ## TXF -/

theorem beginStart_keeps (msg : Bytes) (s : State) : TxKeeps s (beginStart msg s) := by
  constructor <;> rfl

/-- Everything a turn of a waiting `FragStart` can do (R50, R64, R160). -/
theorem startTurn_cases (s : State) :
    (s.inp.startAns = [] ∧ startTurn s = s) ∨
    (∃ session more, s.inp.startAns = session :: more ∧
      startTurn s = (s.setInp { s.inp with startAns := more }).setTx
        { s.tx with prod := session, state := .busy, pend := .none, starting := none }) := by
  cases h : s.inp.startAns with
  | nil => exact .inl ⟨rfl, by simp [startTurn, h]⟩
  | cons session more => exact .inr ⟨session, more, rfl, by simp [startTurn, h]⟩

theorem startTurn_keeps (s : State) : TxKeeps s (startTurn s) := by
  unfold startTurn
  split
  · exact TxKeeps.refl s
  · constructor <;> rfl

theorem beginWrite_keeps (pkt : Bytes) (s : State) : TxKeeps s (beginWrite pkt s) := by
  constructor <;> rfl

@[simp] theorem beginWrite_writeAns (pkt : Bytes) (s : State) : (beginWrite pkt s).inp.writeAns = s.inp.writeAns := rfl

theorem writeTurn_keeps (s : State) : TxKeeps s (writeTurn s) := by
  unfold writeTurn
  split
  · exact TxKeeps.refl s
  all_goals constructor <;> first | rfl | exact List.prefix_append _ _

/-- Everything a turn of the write in flight can do (R29, R55, R165). -/
theorem writeTurn_cases (s : State) :
    (s.inp.writeAns = [] ∧ writeTurn s = s) ∨
    (∃ more, s.inp.writeAns = .ok :: more ∧
      writeTurn s = appendOut (s.tx.slice s.tx.frame.length)
        ((s.setInp { s.inp with writeAns := more }).setTx { s.tx with pend := .none, sent := 0 })) ∨
    (∃ k more, s.inp.writeAns = .part k :: more ∧
      writeTurn s = appendOut (s.tx.slice (prefixLen s.tx (s.tx.sent + k)))
        ((s.setInp { s.inp with writeAns := more }).setTx { s.tx with sent := prefixLen s.tx (s.tx.sent + k) })) ∨
    (∃ k more, s.inp.writeAns = .fail k :: more ∧
      writeTurn s = endSend .txError (appendOut (s.tx.slice (prefixLen s.tx k))
        (s.setInp { s.inp with writeAns := more }))) := by
  cases h : s.inp.writeAns with
  | nil => exact .inl ⟨rfl, by simp [writeTurn, h]⟩
  | cons a more =>
    cases a with
    | ok => exact .inr (.inl ⟨more, rfl, by simp [writeTurn, h]⟩)
    | fail k => exact .inr (.inr (.inr ⟨k, more, rfl, by simp [writeTurn, h]⟩))
    | part k => exact .inr (.inr (.inl ⟨k, more, rfl, by simp [writeTurn, h]⟩))

/-- A write that has not succeeded never stands at the whole frame. -/
theorem prefixLen_lt {t : TxRegs} (k : Nat) (h : t.sent < t.frame.length) : prefixLen t k < t.frame.length := by
  unfold prefixLen
  omega

theorem sent_le_prefixLen (t : TxRegs) (k : Nat) : t.sent ≤ prefixLen t k := by
  unfold prefixLen
  omega

/-- What stood of a frame in the stream and the slice up to `n` are its first `n` bytes. -/
theorem take_sent_append_slice (t : TxRegs) {n : Nat} (h : t.sent ≤ n) :
    t.frame.take t.sent ++ t.slice n = t.frame.take n := by
  rw [TxRegs.slice, show t.frame.take t.sent = (t.frame.take n).take t.sent by
    rw [List.take_take, Nat.min_eq_left h], List.take_append_drop]

@[simp] theorem endSend_tx (r : SendResult) (s : State) :
    (endSend r s).tx = { s.tx with state := .idle, pend := .none, sent := 0 } := rfl

@[simp] theorem endSend_sendResults (r : SendResult) (s : State) :
    (endSend r s).out.sendResults = s.out.sendResults ++ [r] := rfl

end Sys2Proof.Machine
end

