-- ==== Sys2Proof/Laws/PerInstr.lean ====
section
/-! SUPPORT. What holds of every instruction as syntax, one lemma per constructor. -/

namespace Sys2Proof.Laws.EncodingLength

/-- An operation is one label byte (R118), a header on the wire six bytes (R110). -/
def Statement (i : Instr) : Prop :=
  ∀ p : Params, (encode p i).length = match i.format with
    | .op => 1
    | .hdr6 => 6

theorem hdrSerialize (len : Len) (src dst : Byte) : Statement (.hdrSerialize len src dst) := fun _ => rfl
theorem hdrParse (b : Hdr6) : Statement (.hdrParse b) := fun _ => rfl
theorem txSend (bufs : List Bytes) : Statement (.txSend bufs) := fun _ => rfl
theorem txPull : Statement .txPull := fun _ => rfl
theorem txFrag (f : Bytes) : Statement (.txFrag f) := fun _ => rfl
theorem txDone (tag : Tag) : Statement (.txDone tag) := fun _ => rfl
theorem txFerr (e : FragError) : Statement (.txFerr e) := fun _ => rfl
theorem rxHdr : Statement .rxHdr := fun _ => rfl
theorem rxChk : Statement .rxChk := fun _ => rfl
theorem rxPay : Statement .rxPay := fun _ => rfl
theorem rxFlt : Statement .rxFlt := fun _ => rfl
theorem rxDec : Statement .rxDec := fun _ => rfl
theorem rxRck : Statement .rxRck := fun _ => rfl
theorem rxDlv : Statement .rxDlv := fun _ => rfl
theorem frame (length : Len) (source dest : Byte) : Statement (.frame length source dest) := fun _ => rfl
theorem frameBadMagic (magic version : Byte) (length : Len) (source dest : Byte) :
    Statement (.frameBadMagic magic version length source dest) := fun _ => rfl
theorem frameBadVersion (version : Byte) (length : Len) (source dest : Byte) :
    Statement (.frameBadVersion version length source dest) := fun _ => rfl

end Sys2Proof.Laws.EncodingLength
end

