-- ==== Sys2Proof/Laws/Step.lean ====
section
/-! SUPPORT. How steps and runs unfold: cite these and do not unfold `step` or `runSteps`. -/

namespace Sys2Proof.Machine

/-- One step of a run of any machine behind the host's interface. -/
theorem run_of_next (M : Host.Core) (s t : M.State) (n : Nat) (h : M.step s = .next t) :
    M.run (n + 1) s = M.run n t := by
  rw [Host.Core.run, h]

@[simp] theorem runSteps_zero (s : State) : runSteps 0 s = .next s := rfl

/-- A run goes on from the state its first step answers. -/
theorem runSteps_next {s t : State} (n : Nat) (h : step s = .next t) : runSteps (n + 1) s = runSteps n t :=
  run_of_next core s t n h

/-- A step whose script entry selects an operation is that operation. -/
theorem step_of_fetch {s s' : State} {ev : Stimulus} {script : List Stimulus} {i : Instr}
    (h : s.inp.script = ev :: script) (hf : fetch ev (popScript s) = some (i, s')) : step s = exec i s' := by
  simp [step, takeTurn, h, runStimulus, hf]

/-- A step whose script entry selects none. -/
theorem step_of_none {s : State} {ev : Stimulus} {script : List Stimulus}
    (h : s.inp.script = ev :: script) (hf : fetch ev (popScript s) = none) :
    step s = .next (stimulate ev (popScript s)) := by
  simp [step, takeTurn, h, runStimulus, hf]

/-- With the script at its end nothing happens. -/
theorem step_of_nil {s : State} (h : s.inp.script = []) : step s = .next s := by
  simp [step, takeTurn, h]

/-- What a step is: nothing, an operation that an entry selects, or what an entry does at a port. -/
theorem step_cases (s : State) :
    (s.inp.script = [] ∧ step s = .next s) ∨
    (∃ ev script i s', s.inp.script = ev :: script ∧ fetch ev (popScript s) = some (i, s') ∧ step s = exec i s') ∨
    (∃ ev script, s.inp.script = ev :: script ∧ fetch ev (popScript s) = none ∧
      step s = .next (stimulate ev (popScript s))) := by
  cases h : s.inp.script with
  | nil => exact .inl ⟨rfl, step_of_nil h⟩
  | cons ev script =>
    cases hf : fetch ev (popScript s) with
    | none => exact .inr (.inr ⟨ev, script, rfl, hf, step_of_none h hf⟩)
    | some r => exact .inr (.inl ⟨ev, script, r.1, r.2, rfl, hf, step_of_fetch h hf⟩)

/-- Going past an entry leaves the rest of the script. -/
theorem popScript_eq {s : State} {ev : Stimulus} {script : List Stimulus} (h : s.inp.script = ev :: script) :
    popScript s = s.setInp { s.inp with script := script } := by
  simp [popScript, h]

end Sys2Proof.Machine
end

