-- ==== Sys2Proof/Laws/Select.lean ====
section
/-! SUPPORT. What an entry of the script selects, and how runs compose. -/

namespace Sys2Proof.Machine

/-- Whatever class a header decodes to, executing it is receiving that header whole. -/
theorem exec_decodeHeader (h : Hdr6) (s : State) (p : Params) (hp : p = s.par) :
    exec (decodeHeader p h) s = .next (receiveHeader h s) := by
  subst hp
  have hs := Hdr6.ofFields_self h
  unfold decodeHeader
  split
  · simp [exec, execFrameBadMagic, hs]
  · split
    · simp_all [exec, execFrameBadVersion]
    · simp_all [exec, execFrame, serialize]

theorem fetchRx_eq {s s' : State} {i : Instr} (h : fetchRx s = some (i, s')) :
    s.rx.state = .running ∧ s' = s ∧ i = phaseInstr s.rx.phase := by
  unfold fetchRx at h
  split at h
  · cases h; exact ⟨‹_›, rfl, rfl⟩
  · cases h

theorem isRxOp_phaseInstr (p : RxPhase) : isRxOp (phaseInstr p) = true := by cases p <;> rfl

theorem isRxOp_decodeHeader (p : Params) (h : Hdr6) : isRxOp (decodeHeader p h) = true := by
  unfold decodeHeader
  split
  · rfl
  · split <;> rfl

/-- Everything that can be selected: an operation of TXF in a send, a waiting or a new `TX.SEND`, one of RXP, a whole header, or a call on HDR; and what
has changed in the state it runs from. -/
theorem fetch_cases {ev : Stimulus} {u v : State} {i : Instr} (h : fetch ev u = some (i, v)) :
    (ev = .tx ∧ u.tx.state = .busy ∧ v = u ∧
      i = (match u.tx.pend with
        | .none => .txPull
        | .packet => .txFrag u.tx.frag
        | .writing => .txFrag u.tx.frag
        | .complete tag => .txDone tag
        | .error e => .txFerr e)) ∨
    (ev = .tx ∧ u.tx.state = .idle ∧ v = u ∧ ∃ msg, u.tx.starting = some msg ∧ i = .txSend [msg]) ∨
    (ev = .tx ∧ u.tx.state = .idle ∧ u.tx.starting = none ∧ ∃ bufs rest, u.inp.sendReqs = bufs :: rest ∧
      i = .txSend bufs ∧ v = u.setInp { u.inp with sendReqs := rest }) ∨
    ((ev = .rxp ∨ ev = .rxpHeader) ∧ u.rx.state = .running ∧ v = u ∧ i = phaseInstr u.rx.phase) ∨
    (ev = .rxpHeader ∧ u.atBoundary = true ∧ ∃ (hd : Hdr6) (rest : List RxAns),
      u.inp.rxAns = hd.toList.map RxAns.byte ++ rest ∧ i = decodeHeader u.par hd ∧
      v = countTaken hdrW (u.setInp { u.inp with rxAns := rest })) ∨
    (∃ c, ev = .hdr c ∧ i = c.toInstr ∧ v = u) := by
  unfold fetch at h
  split at h
  · unfold fetchTx at h
    split at h
    · rename_i msg h1 h2
      cases h
      exact .inr (.inl ⟨rfl, h1, rfl, msg, h2, rfl⟩)
    · cases h
    · rename_i h1 h2 h3
      cases h
      exact .inr (.inr (.inl ⟨rfl, h1, h2, _, _, h3, rfl, rfl⟩))
    · rename_i h1
      cases h
      exact .inl ⟨rfl, h1, rfl, rfl⟩
  · obtain ⟨h1, h2, h3⟩ := fetchRx_eq h
    exact .inr (.inr (.inr (.inl ⟨.inl rfl, h1, h2, h3⟩)))
  · split at h
    · rename_i r hr
      cases h
      unfold fetchHeader at hr
      split at hr
      · rename_i h1 h2
        cases hr
        refine .inr (.inr (.inr (.inr (.inl ⟨rfl, h1, _, _, ?_, rfl, rfl⟩))))
        unfold frontHeader at h2
        split at h2
        · rename_i heq
          cases h2
          rw [heq]
          rfl
        · cases h2
      · cases hr
    · obtain ⟨h1, h2, h3⟩ := fetchRx_eq h
      exact .inr (.inr (.inr (.inl ⟨.inr rfl, h1, h2, h3⟩)))
  · cases h
    exact .inr (.inr (.inr (.inr (.inr ⟨_, rfl, rfl, rfl⟩))))
  all_goals cases h

/-- A call on HDR adds its result to what was returned and does nothing else. -/
theorem exec_hdrCall (c : HdrCall) (s : State) : exec c.toInstr s = .next (returnHdr (c.result s.par) s) := by
  cases c <;> rfl

/-- RXP is never refused. -/
theorem exec_rxOp_next (i : Instr) (s : State) (h : isRxOp i = true) : ∃ t, exec i s = .next t := by
  cases i <;> simp [isRxOp] at h <;> exact ⟨_, rfl⟩

/-- A run of `k` steps to `t`, then `m` more. -/
theorem runSteps_add (k m : Nat) {s t : State} (h : runSteps k s = .next t) : runSteps (m + k) s = runSteps m t := by
  induction k generalizing s with
  | zero => rw [runSteps_zero] at h; cases h; rfl
  | succ k ih =>
    cases hs : step s with
    | next v =>
      rw [runSteps_next k hs] at h
      rw [← Nat.add_assoc, runSteps_next _ hs]
      exact ih h
    | fault f => cases f
    | refused r =>
      have : runSteps (k + 1) s = .refused r := by simp only [runSteps, Host.Core.run, core, hs]
      rw [this] at h
      cases h

end Sys2Proof.Machine
end

