-- ==== Sys2Proof/Tests/Slice0.lean ====
section
/-! SUPPORT. Small tests of one step each, with expected values from the spec's vectors (95_test_vectors.md), and a named
witness for every statement that has hypotheses. -/

namespace Sys2Proof.Tests

open Sys2Proof Sys2Proof.Machine

/-! ## The nodes of 95_test_vectors.md: instantiation T0, the values of codec F1 that the tests use -/

/-- `Hello World!`. -/
def hello : Bytes := [0x48, 0x65, 0x6C, 0x6C, 0x6F, 0x20, 0x57, 0x6F, 0x72, 0x6C, 0x64, 0x21]

/-- T0 with `MTU = 64`. F1: three envelope bytes in front of the fragment. -/
def t0 : Params :=
  { magic := 0xA5, version := 0x01, mtu := 64
    enc := [⟨0x10, 0x20, false, hello, [0x10, 0x20, 0x0C] ++ hello⟩,
            ⟨0x10, 0x20, false, [], [0x10, 0x20, 0x00]⟩,
            ⟨0x10, 0x20, false, [0x41, 0x42], [0x10, 0x20, 0x02, 0x41, 0x42]⟩]
    dec := [⟨false, [0x10, 0x20, 0x02, 0xAA, 0xBB], some ⟨[0xAA, 0xBB], 0x10⟩⟩,
            ⟨false, [0x10, 0x20, 0x05, 0xAA, 0xBB], none⟩,
            ⟨false, [0x33, 0x20, 0x02, 0xAA, 0xBB], some ⟨[0xAA, 0xBB], 0x33⟩⟩,
            ⟨false, [0x10, 0x20, 0x02, 0x41, 0x42], some ⟨[0x41, 0x42], 0x10⟩⟩] }

/-- Some values for the registers that reset leaves unspecified. -/
def dead : DeadRegs := ⟨⟨0⟩, ⟨0, 0, 0, 0, 0, 0⟩, ⟨0, 0, 0, 0, 0, 0⟩, 0, 0, 0, 0⟩

/-- A block right after reset with nothing waiting. -/
def node (localAddr peerAddr : Byte) : State :=
  { par := t0, cfg := ⟨localAddr, peerAddr, false⟩, tx := TxRegs.reset dead, rx := RxRegs.reset dead
    inp := ⟨[], ⟨localAddr, peerAddr, false⟩, [], [], [], [], [], []⟩, out := Outputs.reset, draws := 1 }

def nodeA : State := node 0x20 0x10
def nodeB : State := node 0x10 0x20

/-- TXF in a send with an outcome pending. -/
def sending (pend : TxPend) (frag : Bytes) (s : State) : State :=
  s.setTx { s.tx with state := .busy, pend := pend, frag := frag }

/-- RXP in a phase with a count and the header of a frame for node B. -/
def atStep (p : RxPhase) (cnt : BitVec 16) (len : Len) (s : State) : State :=
  s.setRx { s.rx with phase := p, cnt := cnt, hbuf := serialize t0 len 0x20 0x10, len := len, src := 0x20, dst := 0x10 }

def stopped (s : State) : State := s.setRx { s.rx with state := .stopped, cause := .cleanEof }

def starts (as : List Session) (s : State) : State := s.setInp { s.inp with startAns := as }
def frags (as : List FragAns) (s : State) : State := s.setInp { s.inp with fragAns := as }
def writes (as : List WriteAns) (s : State) : State := s.setInp { s.inp with writeAns := as }
def rxs (as : List RxAns) (s : State) : State := s.setInp { s.inp with rxAns := as }
def inbs (as : List InbAns) (s : State) : State := s.setInp { s.inp with inbAns := as }
def script (evs : List Stimulus) (s : State) : State := s.setInp { s.inp with script := evs }
def requests (rs : List (List Bytes)) (s : State) : State := s.setInp { s.inp with sendReqs := rs }

/-- A field of the next state; `none` where there is none. -/
def get {α : Type} (f : State → α) : Host.Outcome State Fault Refusal → Option α
  | .next t => some (f t)
  | .fault _ => none
  | .refused _ => none

/-- The refusal of an outcome. -/
def refusal : Host.Outcome State Fault Refusal → Option Refusal
  | .next _ => none
  | .fault _ => none
  | .refused r => some r

/-! ## WellFormed refuses an ill-formed term for each check -/

theorem test_illFormed_noBuffers : WellFormed t0 (.txSend []) = false := by decide
theorem test_illFormed_fragmentAboveMtu : WellFormed t0 (.txFrag (List.replicate 65 0)) = false := by decide
theorem test_illFormed_magicIsRight : WellFormed t0 (.frameBadMagic 0xA5 0x02 0 0 0) = false := by decide
theorem test_illFormed_versionIsRight : WellFormed t0 (.frameBadVersion 0x01 0 0 0) = false := by decide
theorem test_wellFormed_fragmentOfMtu : WellFormed t0 (.txFrag (List.replicate 64 0)) = true := by decide

/-! ## Decoding: the labels of R117 and opcode_table.json, and header words written out from R111 -/

theorem test_decode_labels_hdr :
    decodeTableWord 8 0b0000 = some (.hdrSerialize 0 0 0) ∧
    decodeTableWord 8 0b0001 = some (.hdrParse ⟨0, 0, 0, 0, 0, 0⟩) := by decide
theorem test_decode_labels_tx :
    decodeTableWord 8 0b0010 = some (.txSend [[]]) ∧ decodeTableWord 8 0b0011 = some .txPull ∧
    decodeTableWord 8 0b0100 = some (.txFrag []) ∧ decodeTableWord 8 0b0101 = some (.txDone ⟨0⟩) ∧
    decodeTableWord 8 0b0110 = some (.txFerr ⟨0⟩) := by decide
theorem test_decode_labels_rx :
    decodeTableWord 8 0b0111 = some .rxHdr ∧ decodeTableWord 8 0b1000 = some .rxChk ∧
    decodeTableWord 8 0b1001 = some .rxPay ∧ decodeTableWord 8 0b1010 = some .rxFlt ∧
    decodeTableWord 8 0b1011 = some .rxDec ∧ decodeTableWord 8 0b1100 = some .rxRck ∧
    decodeTableWord 8 0b1101 = some .rxDlv := by decide
/-- R117 numbers fourteen operations: 14 and above name none. -/
theorem test_decode_noSuchLabel :
    decodeTableWord 8 0b1110 = none ∧ decodeTableWord 8 0b1111 = none ∧ decodeTableWord 8 255 = none := by decide
/-- V-SER-6 as a word: `dddddddd ssssssss LLLLLLLL llllllll vvvvvvvv mmmmmmmm` of R111. -/
theorem test_decode_frame :
    decodeHeader t0 (Hdr6.ofWord 0b11001101_10101011_00010010_00110100_00000001_10100101) =
      .frame 0x1234 0xAB 0xCD := by decide
/-- V-PAR-8: both bytes wrong. -/
theorem test_decode_badMagic :
    decodeHeader t0 (Hdr6.ofWord 0b00010000_00100000_00000000_00001111_00000000_00000000) =
      .frameBadMagic 0x00 0x00 15 0x20 0x10 := by decide
/-- V-PAR-11: the magic value in the place of the version. -/
theorem test_decode_badVersion :
    decodeHeader t0 (Hdr6.ofWord 0b00000000_00000000_00000000_00000000_10100101_10100101) =
      .frameBadVersion 0xA5 0 0 0 := by decide
theorem test_decode_shortHeader : decode t0 .hdr6 [0xA5, 0x01, 0x0F] = .error (.shortHeader 3) := by decide
/-- V-SER-2 encoded. -/
theorem test_encode_frame : encode t0 (.frame 15 0x20 0x10) = [0xA5, 0x01, 0x0F, 0x00, 0x20, 0x10] := by decide

/-! ## HDR -/

/-- V-SER-5: low byte first. -/
theorem test_serialize_lowByteFirst :
    (serialize t0 256 0x01 0x02).toList = [0xA5, 0x01, 0x00, 0x01, 0x01, 0x02] := by decide
/-- V-PAR-2. -/
theorem test_parse_littleEndian :
    parse t0 ⟨0xA5, 0x01, 0x00, 0x0F, 0x20, 0x10⟩ = .ok ⟨0xA5, 0x01, 3840, 0x20, 0x10⟩ := by decide
/-- V-PAR-9 and V-PAR-10. -/
theorem test_parse_rejects :
    parse t0 ⟨0x01, 0xA5, 0x0F, 0x00, 0x20, 0x10⟩ = .err .badMagic ∧
    parse t0 ⟨0xA5, 0x02, 0x00, 0x00, 0x20, 0x10⟩ = .err .badVersion := by decide
theorem test_exec_hdr :
    get (fun t => t.out.hdrResults) (exec (.hdrSerialize 15 0x20 0x10) nodeA) =
      some [.bytes ⟨0xA5, 0x01, 0x0F, 0x00, 0x20, 0x10⟩] ∧
    get (fun t => t.out.hdrResults) (exec (.hdrParse ⟨0xA4, 0x01, 0x0F, 0x00, 0x20, 0x10⟩) nodeA) =
      some [.parsed (.err .badMagic)] := by decide

/-! ## TXF -/

/-- Node A with `FragStart` called on a message and no answer. -/
def waiting (msg : Bytes) : State := nodeA.setTx { nodeA.tx with starting := some msg }

/-- V-TX-10: two slices, one message, the MTU advertised. -/
theorem test_txSend_vectored :
    get (fun t => (t.tx.state, t.tx.prod, t.out.fragStarts))
      (exec (.txSend [hello.take 6, hello.drop 6]) (starts [⟨4⟩] nodeA)) = some (.busy, ⟨4⟩, [⟨hello, 64⟩]) := by decide
/-- R50, R64: without the engine's answer TXF stays in `TX.SEND`; the call is made once, and no other request is taken. -/
theorem test_txSend_waits :
    get (fun t => (t.tx.state, t.tx.starting, t.out.fragStarts)) (step (script [.tx] (requests [[hello]] nodeA))) =
      some (.idle, some hello, [⟨hello, 64⟩]) ∧
    get (fun t => (t.tx.starting, t.out.fragStarts, t.inp.sendReqs))
      (step (script [.tx] (requests [[[1]]] (waiting hello)))) = some (some hello, [], [[[1]]]) := by decide
/-- V-TX-11: held while `BUSY`. -/
theorem test_txSend_held :
    get (fun t => (t.inp.sendReqs, t.out.fragStarts)) (exec (.txSend [[1]]) (requests [[[2]]] (sending .none [] nodeA))) =
      some ([[[2]], [[1]]], []) := by decide
theorem test_txPull_packet :
    get (fun t => (t.tx.frag, t.tx.pend)) (exec .txPull (frags [.packet hello] (sending .none [] nodeA))) =
      some (hello, .packet) := by decide
/-- V-TX-12: a fragment above `MTU`. -/
theorem test_txPull_refused :
    refusal (exec .txPull (frags [.packet (List.replicate 65 0)] (sending .none [] nodeA))) =
      some .fragmentTooLong := by decide
/-- V-TX-1: 21 bytes, `length = 15`. -/
theorem test_txFrag_helloWorld :
    get (fun t => t.out.outStream) (exec (.txFrag hello) (writes [.ok] (sending .packet hello nodeA))) =
      some ([0xA5, 0x01, 0x0F, 0x00, 0x20, 0x10, 0x10, 0x20, 0x0C] ++ hello) := by decide
/-- As V-TX-8, with the 11-byte frame of `[41 42]`: `Fail(3)`. -/
theorem test_txFrag_failed :
    get (fun t => (t.out.outStream, t.out.sendResults, t.tx.state))
      (exec (.txFrag [0x41, 0x42]) (writes [.fail 3] (sending .packet [0x41, 0x42] nodeA))) =
      some ([0xA5, 0x01, 0x05], [.txError], .idle) := by decide
theorem test_txDone :
    get (fun t => (t.tx.state, t.out.sendResults)) (exec (.txDone ⟨7⟩) (sending (.complete ⟨7⟩) [] nodeA)) =
      some (.idle, [.ok ⟨7⟩]) := by decide
/-- V-TX-6: nothing written, the error unchanged. -/
theorem test_txFerr :
    get (fun t => (t.tx.state, t.out.outStream, t.out.sendResults)) (exec (.txFerr ⟨9⟩) (sending (.error ⟨9⟩) [] nodeA)) =
      some (.idle, [], [.fragError ⟨9⟩]) := by decide

/-! ## RXP -/

/-- The sixth byte ends the header read. -/
theorem test_rxHdr_sixthByte :
    get (fun t => (t.rx.phase, t.rx.cnt, t.rx.hbuf.b5, t.out.inTaken))
      (exec .rxHdr (rxs [.byte 0x77, .byte 0x88] (atStep .hdr 5 0 nodeB))) = some (.chk, 0, 0x77, 1) := by decide
/-- V-RX-1, V-RX-3 and V-RX-4. -/
theorem test_rxHdr_stops :
    get (fun t => t.rx.cause) (exec .rxHdr (rxs [.eos] nodeB)) = some .cleanEof ∧
    get (fun t => t.rx.cause) (exec .rxHdr (rxs [.eos] (atStep .hdr 1 0 nodeB))) = some .hdrShort ∧
    get (fun t => t.rx.cause) (exec .rxHdr (rxs [.err] nodeB)) = some .hdrReadErr := by decide
/-- V-RX-7. -/
theorem test_rxChk_badVersion :
    get State.rxstat (exec .rxChk (nodeB.setRx
      { nodeB.rx with phase := .chk, hbuf := ⟨0xA5, 0x02, 0x00, 0x00, 0x20, 0x10⟩ })) =
      some (.stopped, .badVersion) := by decide
/-- V-RX-9 and V-RX-9b: the end of the stream right after a header is not clean. -/
theorem test_rxPay_stops :
    get (fun t => t.rx.cause) (exec .rxPay (rxs [.eos] (atStep .pay 0 3 nodeB))) = some .payShort ∧
    get (fun t => t.rx.cause) (exec .rxPay (rxs [.err] (atStep .pay 1 3 nodeB))) = some .payReadErr := by decide
/-- V-RX-16: `length = 0` takes no byte. -/
theorem test_rxPay_empty :
    get (fun t => (t.rx.phase, t.inp.rxAns)) (exec .rxPay (rxs [.eos] (atStep .pay 0 0 nodeB))) =
      some (.flt, [.eos]) := by decide
/-- V-RX-10. -/
theorem test_rxFlt_drops :
    get (fun t => (t.out.log, t.rx.phase)) (exec .rxFlt (nodeB.setRx { nodeB.rx with phase := .flt, dst := 0x33 })) =
      some ([.dropFrameDest], .hdr) := by decide

/-- RXP with the whole payload of a five-byte frame. -/
def withPayload (p : RxPhase) (pay : Bytes) (s : State) : State :=
  (atStep p 0 5 s).setRx { (atStep p 0 5 s).rx with pbuf := pay }

/-- V-RX-13, the decode. -/
theorem test_rxDec_decodes :
    get (fun t => (t.rx.frag, t.rx.bdst, t.rx.phase))
      (exec .rxDec (withPayload .dec [0x10, 0x20, 0x02, 0xAA, 0xBB] nodeB)) =
      some ([0xAA, 0xBB], 0x10, .rck) := by decide
/-- V-RX-11. -/
theorem test_rxDec_fails :
    get (fun t => (t.out.log, t.rx.phase)) (exec .rxDec (withPayload .dec [0x10, 0x20, 0x05, 0xAA, 0xBB] nodeB)) =
      some ([.decodeFail], .hdr) := by decide
/-- V-RX-12. -/
theorem test_rxRck_drops :
    get (fun t => (t.out.log, t.out.deliveries)) (exec .rxRck (nodeB.setRx { nodeB.rx with phase := .rck, bdst := 0x33 })) =
      some ([.dropBusDest], []) := by decide
/-- V-RX-14: delivered once, the error logged, the next frame. -/
theorem test_rxDlv_engineError :
    get (fun t => (t.out.deliveries, t.out.log, t.rx.phase))
      (exec .rxDlv (inbs [.err ⟨1⟩] (nodeB.setRx { nodeB.rx with phase := .dlv, frag := [0xAA, 0xBB] }))) =
      some ([[0xAA, 0xBB]], [.engineErr ⟨1⟩], .hdr) := by decide

/-! ## The wire rows -/

/-- V-RX-13, the header taken whole. -/
theorem test_frame_startsPayload :
    get (fun t => (t.rx.phase, t.rx.len, t.rx.src, t.rx.dst)) (exec (.frame 5 0x20 0x10) nodeB) =
      some (.pay, 5, 0x20, 0x10) := by decide
/-- V-PRI-1: magic before version. -/
theorem test_frame_illegal :
    get State.rxstat (exec (.frameBadMagic 0x00 0x00 0xFFFF 0x20 0x33) nodeB) = some (.stopped, .badMagic) ∧
    get State.rxstat (exec (.frameBadVersion 0x02 3 0x20 0x10) nodeB) = some (.stopped, .badVersion) := by decide

/-! ## Steps -/

/-- V-RX-6: six bytes in the stream, taken whole. -/
theorem test_step_wholeHeader :
    get (fun t => (t.rx.cause, t.out.inTaken))
      (step (script [.rxpHeader] (rxs ([0x00, 0x01, 0x05, 0x00, 0x20, 0x10].map .byte) nodeB))) =
      some (.badMagic, 6) := by decide
/-- Reset in the middle of a frame and of a send (R271). -/
theorem test_step_reset :
    get (fun t => (t.rx.phase, t.rx.cnt, t.tx.state, t.out.sendResults, t.out.inTaken))
      (step (script [.rst] (atStep .pay 2 3 (sending .none [] nodeB)))) = some (.hdr, 0, .idle, [], 0) := by decide
/-- The placed instruction is the first to run. -/
theorem test_withFetchWord :
    get (fun t => t.rx.phase) (step (nodeB.withFetchWord 8 0b0111)) = some .hdr ∧
    get (fun t => t.rx.cnt) (step (nodeB.withFetchWord 8 0b0111)) = some 1 ∧
    get (fun t => t.rx.len) (step (nodeB.withFetchWord 48 0x1020000F01A5)) = some 15 := by decide

/-! ## Witnesses: states and operands that meet the hypotheses of each statement, each clause at a boundary -/

theorem witness_ParseInvertsSerialize :
    parse t0 ⟨0xA5, 0x01, 0x34, 0x12, 0xAB, 0xCD⟩ = .ok ⟨0xA5, 0x01, 0x1234, 0xAB, 0xCD⟩ := by decide

/-- The highest and the lowest bit of both bytes: the rows of section 2.3. -/
theorem witness_FlippedConstantBitIsRejected :
    (0 < 8 ∧ 7 < 8) ∧ 0xA5#8 ^^^ (1#8 <<< 7) = 0x25 ∧ 0xA5#8 ^^^ (1#8 <<< 0) = 0xA4 ∧
    0x01#8 ^^^ (1#8 <<< 7) = 0x81 ∧ 0x01#8 ^^^ (1#8 <<< 0) = 0x00 := by decide

/-- An instruction of each format, with the operands at their greatest values. -/
theorem witness_DecodeInvertsEncode :
    WellFormed t0 (.frame 0xFFFF 0xFF 0xFF) = true ∧ (Instr.frame 0xFFFF 0xFF 0xFF).format = .hdr6 ∧
    WellFormed t0 (.frameBadMagic 0xA4 0xFF 0 0 0) = true ∧ WellFormed t0 (.frameBadVersion 0x00 0 0 0) = true ∧
    WellFormed t0 (.txSend [[1], []]) = true ∧ WellFormed t0 .rxDlv = true ∧
    opNumber (.txFrag [1, 2]) = some 4 ∧ opNumber (.txFrag []) = some 4 := by decide

theorem witness_EncodeInvertsHeaderDecode :
    decode t0 .hdr6 [0xA5, 0x01, 0xFF, 0xFF, 0x00, 0x00, 0x77] = .ok (.frame 0xFFFF 0x00 0x00, [0x77]) ∧
    decode t0 .hdr6 [0xA5, 0xA5, 0x00, 0x00, 0x00, 0x00] = .ok (.frameBadVersion 0xA5 0 0 0, []) := by decide

theorem witness_SampleHeaderWordsDecode : t0.magic = 0xA5 ∧ t0.version = 0x01 := by decide

/-- A header for each of the three clauses of `HDR.PARSE`. -/
theorem witness_HdrCallsReturnTheirResult :
    (0xA4 : Byte) ≠ nodeA.par.magic ∧ (0x00 : Byte) ≠ nodeA.par.version ∧
    nodeA.par.magic = 0xA5 ∧ nodeA.par.version = 0x01 := by decide

/-- An answer there and none, at the call and in the wait. -/
theorem witness_TxSendStartsProducer :
    (∀ as, (starts as nodeA).tx.state = .idle ∧ (starts as nodeA).tx.starting = none ∧
      (starts as nodeA).inp.startAns = as) ∧
    ∀ as, (starts as (waiting [])).tx.state = .idle ∧ (starts as (waiting [])).tx.starting = some [] ∧
      (starts as (waiting [])).inp.startAns = as := ⟨fun _ => ⟨rfl, rfl, rfl⟩, fun _ => ⟨rfl, rfl, rfl⟩⟩

/-- Busy with a request; waiting for `FragStart` of another; idle with one held, at its turn. -/
theorem witness_SendRequestsAreHeldInOrder :
    (sending .none [] nodeA).tx.state = .busy ∧
    ((waiting hello).tx.state = .idle ∧ (waiting hello).tx.starting = some hello ∧ [[], [(1 : Byte)]].flatten ≠ hello) ∧
    nodeA.tx.starting = none ∧
    (script [.tx] (requests [[hello], []] nodeA)).tx.state = .idle ∧
    (script [.tx] (requests [[hello], []] nodeA)).inp.sendReqs = [hello] :: [[]] ∧
    (script [.tx] (requests [[hello], []] nodeA)).inp.script = .tx :: [] := by decide

/-- An empty buffer among others: the message is the same. -/
theorem witness_VectoredSendIsItsConcatenation :
    (nodeA.tx.state = .idle ∧ nodeA.tx.starting = none) ∧ [hello.take 6, [], hello.drop 6].flatten = hello ∧
    [hello.take 6, [], hello.drop 6].filter (fun b => !b.isEmpty) = [hello.take 6, hello.drop 6] := by decide

/-- A fragment of exactly `MTU` bytes, and one of `MTU + 1`; the other two kinds. -/
theorem witness_TxPullTakesTheOutcome :
    (let s := frags [.packet (List.replicate 64 0)] (sending .none [] nodeA)
     s.tx.state = .busy ∧ s.tx.pend = .none ∧ s.inp.fragAns = .packet (List.replicate 64 0) :: [] ∧
     (List.replicate 64 (0 : Byte)).length ≤ s.par.mtu) ∧
    (let s := frags [.complete ⟨7⟩, .error ⟨9⟩] (sending .none [] nodeA)
     s.tx.state = .busy ∧ s.tx.pend = .none ∧ s.inp.fragAns = .complete ⟨7⟩ :: [.error ⟨9⟩]) ∧
    (let s := frags [.error ⟨9⟩] (sending .none [] nodeA)
     s.tx.state = .busy ∧ s.tx.pend = .none ∧ s.inp.fragAns = .error ⟨9⟩ :: []) ∧
    (let s := frags [.packet (List.replicate 65 0)] (sending .none [] nodeA)
     s.tx.state = .busy ∧ s.tx.pend = .none ∧ s.inp.fragAns = .packet (List.replicate 65 0) :: [] ∧
     s.par.mtu < (List.replicate 65 (0 : Byte)).length) := by decide

/-- Node A with a fragment pulled and an answer of the channel in place. -/
def pulled (f : Bytes) (a : WriteAns) : State := writes [a] (sending .packet f nodeA)

theorem witness_fits (a : WriteAns) : fits hello (pulled hello a) ∧ fits [] (pulled [] a) := by
  refine ⟨⟨?_, ?_⟩, ?_, ?_⟩
  · change 12 ≤ 64
    decide
  · change 15 ≤ 65535
    decide
  · change 0 ≤ 64
    decide
  · change 3 ≤ 65535
    decide

theorem witness_TxFragWritesOneFrame :
    ((pulled hello .ok).tx.state = .busy ∧ (pulled hello .ok).tx.pend = .packet ∧
      (pulled hello .ok).inp.writeAns = .ok :: []) ∧ fits hello (pulled hello .ok) ∧
    ((pulled [] (.fail 0)).tx.state = .busy ∧ (pulled [] (.fail 0)).tx.pend = .packet ∧
      (pulled [] (.fail 0)).inp.writeAns = .fail 0 :: []) ∧ fits [] (pulled [] (.fail 0)) :=
  ⟨by decide, (witness_fits _).1, by decide, (witness_fits _).2⟩

/-- The longest strict prefix of the 21-byte frame, and a draw above it. -/
theorem witness_FailedWriteEndsTheSend :
    (frameFor hello nodeA).length = 21 ∧
    ((pulled hello (.fail 20)).tx.state = .busy ∧ (pulled hello (.fail 20)).tx.pend = .packet ∧
      (pulled hello (.fail 20)).inp.writeAns = .fail 20 :: [] ∧ (pulled hello (.fail 20)).tx.starting = none) ∧ fits hello (pulled hello (.fail 20)) ∧
    (pulled hello (.fail 21)).inp.writeAns = .fail 21 :: [] ∧ fits hello (pulled hello (.fail 21)) :=
  ⟨by decide, by decide, (witness_fits _).1, by decide, (witness_fits _).1⟩

/-- Node A with the frame of `[41 42]` in flight, its first three bytes in the stream. -/
def inFlight (as : List WriteAns) : State :=
  { writes as nodeA with
    tx := { nodeA.tx with state := .busy, pend := .writing, sent := 3, pkt := [0x10, 0x20, 0x02, 0x41, 0x42]
                          frag := [0x41, 0x42], hdr := serialize t0 5 0x20 0x10 }
    out := { nodeA.out with outStream := [0xA5, 0x01, 0x05] } }

theorem witness_TxWf (as : List WriteAns) (evs : List Stimulus) : TxWf (script evs (inFlight as)) := by
  refine ⟨fun _ => rfl, fun h => absurd rfl h, ?_, ?_, fun _ => rfl, fun _ => ⟨?_, [], rfl⟩⟩
  · change 2 ≤ 64
    decide
  · change 5 ≤ 65535
    decide
  · change 3 < 11
    decide

theorem witness_WriteInFlightCompletesTheFrame :
    (∀ as, (inFlight as).tx.state = .busy ∧ (inFlight as).tx.pend = .writing ∧ TxWf (inFlight as)) ∧
    (inFlight []).inp.writeAns = [] ∧ (inFlight [.ok]).inp.writeAns = .ok :: [] ∧
    ((inFlight [.part 7]).inp.writeAns = .part 7 :: [] ∧
      (inFlight [.part 7]).tx.sent + 7 < (inFlight [.part 7]).tx.frame.length) ∧
    (inFlight [.part 100]).inp.writeAns = .part 100 :: [] ∧
    ((inFlight [.fail 10]).inp.writeAns = .fail 10 :: [] ∧ (inFlight [.fail 10]).tx.sent ≤ 10 ∧
      10 < (inFlight [.fail 10]).tx.frame.length) ∧
    (inFlight [.fail 0]).inp.writeAns = .fail 0 :: [] ∧ (inFlight [.fail 11]).inp.writeAns = .fail 11 :: [] :=
  ⟨fun as => ⟨rfl, rfl, witness_TxWf as []⟩, rfl, rfl, by decide, rfl, by decide, rfl, rfl⟩

/-- No answer, the longest progress of the 21-byte frame, and a draw above it. -/
theorem witness_FirstWriteTurnStaysInFlight :
    (∀ a, (pulled hello a).tx.state = .busy ∧ (pulled hello a).tx.pend = .packet ∧ fits hello (pulled hello a)) ∧
    (let s := sending .packet hello nodeA
     s.tx.state = .busy ∧ s.tx.pend = .packet ∧ fits hello s ∧ s.inp.writeAns = []) ∧
    ((pulled hello (.part 20)).inp.writeAns = .part 20 :: [] ∧ 20 < (frameFor hello nodeA).length) ∧
    (pulled hello (.part 21)).inp.writeAns = .part 21 :: [] :=
  ⟨fun a => ⟨rfl, rfl, (witness_fits a).1⟩, ⟨rfl, rfl, (witness_fits .ok).1, rfl⟩, by decide, rfl⟩

theorem witness_TxDoneAndTxFerrRespond :
    ((sending (.complete ⟨7⟩) [] nodeA).tx.state = .busy ∧ (sending (.complete ⟨7⟩) [] nodeA).tx.pend = .complete ⟨7⟩) ∧
    ((sending (.error ⟨9⟩) [] nodeA).tx.state = .busy ∧ (sending (.error ⟨9⟩) [] nodeA).tx.pend = .error ⟨9⟩) := by decide

/-- Node A with a codec whose packet for the empty fragment has 65536 bytes (V-TX-13). -/
def bigCodec : State :=
  { sending .packet [] nodeA with par := { t0 with enc := [⟨0x10, 0x20, false, [], List.replicate 65536 0⟩] } }

theorem witness_BrokenContractsAreRefused :
    (let s := frags [.packet (List.replicate 65 0)] (sending .none [] nodeA)
     s.tx.state = .busy ∧ s.tx.pend = .none ∧ s.inp.fragAns = .packet (List.replicate 65 0) :: [] ∧
     s.par.mtu < (List.replicate 65 (0 : Byte)).length) ∧
    (let s := sending .packet (List.replicate 65 0) nodeA
     s.tx.state = .busy ∧ s.tx.pend = .packet ∧ s.par.mtu < (List.replicate 65 (0 : Byte)).length) ∧
    (bigCodec.tx.state = .busy ∧ bigCodec.tx.pend = .packet ∧ ([] : Bytes).length ≤ bigCodec.par.mtu) ∧
    65535 < (bigCodec.par.busEncode bigCodec.cfg.peerAddr bigCodec.cfg.localAddr bigCodec.cfg.pec []).length := by
  have h : bigCodec.par.busEncode bigCodec.cfg.peerAddr bigCodec.cfg.localAddr bigCodec.cfg.pec [] =
    List.replicate 65536 0 := rfl
  rw [h, List.length_replicate (n := 65536)]
  exact ⟨by decide, by decide, by decide, by omega⟩

theorem witness_TxfLeavesTheRestUnchanged :
    isTxOp .txPull = true ∧ ∃ t, exec .txPull (frags [.packet hello] (sending .none [] nodeA)) = .next t :=
  ⟨rfl, _, rfl⟩

/-- A send of two fragments, one of them empty, with everything it needs in place. -/
def wholeSend : State :=
  script (List.replicate 7 .tx) (requests [[hello]] (starts [⟨4⟩] (frags [.packet hello, .packet [], .complete ⟨7⟩]
    (writes [.ok, .ok] nodeA))))

theorem witness_SendWritesOneFramePerFragment :
    wholeSend.tx.state = .idle ∧ wholeSend.tx.starting = none ∧ wholeSend.inp.sendReqs = [hello] :: [] ∧
    wholeSend.inp.startAns = ⟨4⟩ :: [] ∧
    (∀ f ∈ [hello, []], f.length ≤ wholeSend.par.mtu ∧ (busPacket f wholeSend).length ≤ payMax) ∧
    wholeSend.inp.script = List.replicate (2 * [hello, []].length + 3) Stimulus.tx ++ [] ∧
    wholeSend.inp.fragAns = [hello, []].map FragAns.packet ++ FragAns.complete ⟨7⟩ :: [] ∧
    wholeSend.inp.writeAns = List.replicate [hello, []].length WriteAns.ok ++ [] := by decide

/-- A peer with the bytes of a send of `[41 42]` in its inbound stream. -/
def peerOfSend : State :=
  script (List.replicate 17 .rxp) (inbs [.ok] (rxs
    ([0xA5, 0x01, 0x05, 0x00, 0x20, 0x10, 0x10, 0x20, 0x02, 0x41, 0x42].map .byte ++ [.eos]) nodeB))

theorem witness_SentFragmentsReachThePeer :
    frameFor [0x41, 0x42] nodeA = [0xA5, 0x01, 0x05, 0x00, 0x20, 0x10, 0x10, 0x20, 0x02, 0x41, 0x42] ∧
    peerOfSend.atBoundary = true ∧ peerOfSend.par.magic = nodeA.par.magic ∧
    peerOfSend.par.version = nodeA.par.version ∧ peerOfSend.cfg.localAddr = nodeA.cfg.peerAddr ∧
    peerOfSend.par.busDecode peerOfSend.cfg.pec (busPacket [0x41, 0x42] nodeA) = some ⟨[0x41, 0x42], 0x10⟩ ∧
    peerOfSend.inp.rxAns = (frameFor [0x41, 0x42] nodeA).map RxAns.byte ++ RxAns.eos :: [] ∧
    [[0x41, 0x42]].length ≤ peerOfSend.inp.inbAns.length ∧
    peerOfSend.inp.script =
      List.replicate (([[0x41, 0x42]].map (fun f => 11 + max 1 (busPacket f nodeA).length)).sum + 1) Stimulus.rxp ++ [] := by
  decide

/-- One whole frame, then the producer's error; then a write that fails. -/
theorem witness_FailedSendLeavesWholeFrames :
    (let s := script (List.replicate 4 .tx) (frags [.packet hello, .error ⟨9⟩] (writes [.ok] (sending .none [] nodeA)))
     s.tx.state = .busy ∧ s.tx.pend = .none ∧ s.inp.script = List.replicate (2 * [hello].length + 2) Stimulus.tx ++ [] ∧
     (∀ f ∈ [hello], f.length ≤ s.par.mtu ∧ (busPacket f s).length ≤ payMax) ∧
     s.inp.fragAns = [hello].map FragAns.packet ++ FragAns.error ⟨9⟩ :: [] ∧
     s.inp.writeAns = List.replicate [hello].length WriteAns.ok ++ []) ∧
    (let s := script (List.replicate 4 .tx) (frags [.packet hello, .packet [], .complete ⟨5⟩]
        (writes [.ok, .fail 3] (sending .none [] nodeA)))
     s.tx.state = .busy ∧ s.tx.pend = .none ∧ s.inp.script = List.replicate (2 * [hello].length + 2) Stimulus.tx ++ [] ∧
     (∀ f ∈ [hello, []], f.length ≤ s.par.mtu ∧ (busPacket f s).length ≤ payMax) ∧
     s.inp.fragAns = [hello].map FragAns.packet ++ FragAns.packet [] :: [.complete ⟨5⟩] ∧
     s.inp.writeAns = List.replicate [hello].length WriteAns.ok ++ WriteAns.fail 3 :: []) := by decide

/-- A step that ends a send, and one that does not. -/
theorem witness_EverySendGetsExactlyOneResponse :
    TxWf (script [.tx] (inFlight [.fail 0])) ∧ (script [.tx] (inFlight [.fail 0])).inp.script = .tx :: [] ∧
    Stimulus.tx ≠ .rst ∧ (∃ t, step (script [.tx] (inFlight [.fail 0])) = .next t) ∧
    TxWf (script [.tx] (inFlight [.ok])) ∧ ∃ t, step (script [.tx] (inFlight [.ok])) = .next t :=
  ⟨witness_TxWf _ _, rfl, by decide, ⟨_, rfl⟩, witness_TxWf _ _, _, rfl⟩

theorem witness_SentFramesCarryConfiguredAddresses :
    get (fun t => t.out.writes) (step (script [.tx] (pulled hello .ok))) =
      some [[0xA5, 0x01, 0x0F, 0x00, 0x20, 0x10, 0x10, 0x20, 0x0C] ++ hello] := by decide

/-- Counts 0 and 5, whatever the answer. -/
theorem witness_RxHdrTakesOneByte (a : RxAns) :
    (let s := rxs [a] (atStep .hdr 0 0 nodeB)
     s.rx.state = .running ∧ s.rx.phase = .hdr ∧ s.rx.cnt.toNat < 6 ∧ s.inp.rxAns = a :: []) ∧
    (let s := rxs [a] (atStep .hdr 5 0 nodeB)
     s.rx.state = .running ∧ s.rx.phase = .hdr ∧ s.rx.cnt.toNat < 6 ∧ s.inp.rxAns = a :: []) :=
  ⟨⟨rfl, rfl, show 0 < 6 by decide, rfl⟩, rfl, rfl, show 5 < 6 by decide, rfl⟩

/-- A header for each of the three clauses. -/
theorem witness_RxChkParsesOrStops :
    (let s := atStep .chk 0 5 nodeB
     s.rx.state = .running ∧ s.rx.phase = .chk ∧ s.rx.hbuf.b0 = s.par.magic ∧ s.rx.hbuf.b1 = s.par.version) ∧
    (let s := nodeB.setRx { nodeB.rx with phase := .chk, hbuf := ⟨0xA5, 0x02, 0, 0, 0x20, 0x10⟩ }
     s.rx.state = .running ∧ s.rx.phase = .chk ∧ s.rx.hbuf.b0 = s.par.magic ∧ s.rx.hbuf.b1 ≠ s.par.version) ∧
    (let s := nodeB.setRx { nodeB.rx with phase := .chk, hbuf := ⟨0x00, 0x02, 0, 0, 0x20, 0x10⟩ }
     s.rx.state = .running ∧ s.rx.phase = .chk ∧ s.rx.hbuf.b0 ≠ s.par.magic) := by decide

/-- Length 0; the first byte of the longest payload and the last byte of a short one, whatever the answer. -/
theorem witness_RxPayTakesOneByte (a : RxAns) :
    (let s := atStep .pay 0 0 nodeB
     s.rx.state = .running ∧ s.rx.phase = .pay ∧ s.rx.len = 0) ∧
    (let s := rxs [a] (atStep .pay 0 0xFFFF nodeB)
     s.rx.state = .running ∧ s.rx.phase = .pay ∧ s.rx.cnt.toNat < s.rx.len.toNat ∧ s.inp.rxAns = a :: []) ∧
    (let s := rxs [a] (atStep .pay 4 5 nodeB)
     s.rx.state = .running ∧ s.rx.phase = .pay ∧ s.rx.cnt.toNat < s.rx.len.toNat ∧ s.inp.rxAns = a :: []) :=
  ⟨⟨rfl, rfl, rfl⟩, ⟨rfl, rfl, show 0 < 65535 by omega, rfl⟩, rfl, rfl, show 4 < 5 by decide, rfl⟩

theorem witness_RxFltDropsForeignFrames :
    (let s := atStep .flt 0 5 nodeB
     s.rx.state = .running ∧ s.rx.phase = .flt ∧ s.rx.dst = s.cfg.localAddr) ∧
    (let s := nodeB.setRx { nodeB.rx with phase := .flt, dst := 0x33 }
     s.rx.state = .running ∧ s.rx.phase = .flt ∧ s.rx.dst ≠ s.cfg.localAddr) := by decide

theorem witness_RxDecDecodesThePayload :
    (let s := withPayload .dec [0x10, 0x20, 0x02, 0xAA, 0xBB] nodeB
     s.rx.state = .running ∧ s.rx.phase = .dec ∧
     s.par.busDecode s.cfg.pec (s.rx.pbuf.take s.rx.len.toNat) = some ⟨[0xAA, 0xBB], 0x10⟩) ∧
    (let s := withPayload .dec [0x10, 0x20, 0x05, 0xAA, 0xBB] nodeB
     s.rx.state = .running ∧ s.rx.phase = .dec ∧
     s.par.busDecode s.cfg.pec (s.rx.pbuf.take s.rx.len.toNat) = none) := by decide

theorem witness_RxRckDropsForeignPackets :
    (let s := nodeB.setRx { nodeB.rx with phase := .rck, bdst := 0x10 }
     s.rx.state = .running ∧ s.rx.phase = .rck ∧ s.rx.bdst = s.cfg.localAddr) ∧
    (let s := nodeB.setRx { nodeB.rx with phase := .rck, bdst := 0x33 }
     s.rx.state = .running ∧ s.rx.phase = .rck ∧ s.rx.bdst ≠ s.cfg.localAddr) := by decide

theorem witness_RxDlvDeliversOnce (a : InbAns) :
    let s := inbs [a] (atStep .dlv 0 5 nodeB)
    s.rx.state = .running ∧ s.rx.phase = .dlv ∧ s.inp.inbAns = a :: [] := ⟨rfl, rfl, rfl⟩

theorem witness_WireHeadersAreCheckedWhole :
    nodeB.atBoundary = true ∧ WellFormed nodeB.par (.frameBadMagic 0xA4 0x01 0 0 0) = true ∧
    WellFormed nodeB.par (.frameBadVersion 0x00 0 0 0) = true := by decide

theorem witness_WholeHeaderTurnEqualsByteTurns :
    (rxs ((⟨0xA5, 0x01, 5, 0, 0x20, 0x10⟩ : Hdr6).toList.map .byte ++ [.byte 0x10]) nodeB).atBoundary = true ∧
    (rxs ((⟨0xA5, 0x01, 5, 0, 0x20, 0x10⟩ : Hdr6).toList.map .byte ++ [.byte 0x10]) nodeB).inp.rxAns =
      (⟨0xA5, 0x01, 5, 0, 0x20, 0x10⟩ : Hdr6).toList.map RxAns.byte ++ [.byte 0x10] := by decide

/-- Each unit at each port it can wait at, and a stopped receiver. -/
theorem witness_WaitingUnitsStayAsTheyAre :
    (let s := atStep .hdr 5 0 nodeB
     s.rx.state = .running ∧ s.rx.phase = .hdr ∧ s.rx.cnt.toNat < 6 ∧ s.inp.rxAns = []) ∧
    (let s := atStep .pay 4 5 nodeB
     s.rx.state = .running ∧ s.rx.phase = .pay ∧ s.rx.cnt.toNat < s.rx.len.toNat ∧ s.inp.rxAns = []) ∧
    (let s := atStep .dlv 0 5 nodeB
     s.rx.state = .running ∧ s.rx.phase = .dlv ∧ s.inp.inbAns = []) ∧
    (let s := sending .none [] nodeA
     s.tx.state = .busy ∧ s.tx.pend = .none ∧ s.inp.fragAns = []) ∧
    ((waiting hello).tx.state = .idle ∧ (waiting hello).tx.starting = some hello ∧ (waiting hello).inp.startAns = []) ∧
    ((inFlight []).tx.state = .busy ∧ (inFlight []).tx.pend = .writing ∧ (inFlight []).inp.writeAns = []) ∧
    (stopped nodeB).rx.state = .stopped ∧ isRxOp (.frame 5 0x20 0x10) = true := by decide

theorem witness_RxpLeavesTheRestUnchanged :
    isRxOp .rxDlv = true ∧ ∃ t, exec .rxDlv (inbs [.err ⟨1⟩] (atStep .dlv 0 5 nodeB)) = .next t := ⟨rfl, _, rfl⟩

/-- Two states that differ in the peer address, in `rx_src` and in the source byte of the header. -/
theorem witness_ReceiverIgnoresPeerAndSource :
    (let s := atStep .chk 0 5 nodeB
     let s' := (s.setCfg { s.cfg with peerAddr := 0x77 }).setRx { s.rx with src := 0x55, hbuf := s.rx.hbuf.set 4 0x77 }
     isRxOp .rxChk = true ∧ blindRx s = blindRx s' ∧ s ≠ s') ∧
    (∃ t, exec .rxChk (atStep .chk 0 5 nodeB) = .next t) ∧
    blindRx nodeB = blindRx (nodeB.setCfg { nodeB.cfg with peerAddr := 0x77 }) := ⟨by decide, ⟨_, rfl⟩, by decide⟩

theorem witness_StoppedReceiverTakesNoStep :
    (stopped nodeB).rx.state = .stopped ∧ (script [.rx (.byte 1)] (stopped nodeB)).inp.script = .rx (.byte 1) :: [] ∧
    Stimulus.rx (.byte 1) ≠ .rst ∧ ∃ t, step (script [.rx (.byte 1)] (stopped nodeB)) = .next t :=
  ⟨rfl, rfl, by decide, _, rfl⟩

/-- A stop in each of the three phases, and in the whole header. -/
theorem witness_ReceiverStopsOnlyForListedCauses :
    get State.rxstat (step (script [.rxp] (rxs [.eos] nodeB))) = some (.stopped, .cleanEof) ∧
    get State.rxstat (step (script [.rxp] (nodeB.setRx { nodeB.rx with phase := .chk }))) = some (.stopped, .badMagic) ∧
    get State.rxstat (step (script [.rxp] (rxs [.err] (atStep .pay 0 5 nodeB)))) = some (.stopped, .payReadErr) ∧
    get State.rxstat (step (script [.rxpHeader] (rxs (List.replicate 6 (.byte 0)) nodeB))) =
      some (.stopped, .badMagic) := by decide

/-- The good frame of V-RX-13. -/
def goodFrame : InFrame := ⟨5, 0x20, 0x10, [0x10, 0x20, 0x02, 0xAA, 0xBB]⟩

/-- A frame of length 0 for another node (V-RX-16b). -/
def foreignFrame : InFrame := ⟨0, 0x20, 0x33, []⟩

theorem witness_OneFrameComesToItsVerdict :
    (goodFrame.verdict t0 nodeB.cfg = .accept [0xAA, 0xBB] ∧ goodFrame.turns t0 nodeB.cfg = 16 ∧
      goodFrame.payload.length = goodFrame.len.toNat) ∧
    (foreignFrame.verdict t0 nodeB.cfg = .drop .dropFrameDest ∧ foreignFrame.turns t0 nodeB.cfg = 9 ∧
      foreignFrame.payload.length = foreignFrame.len.toNat) ∧
    (let s := script (List.replicate 16 .rxp) (inbs [.ok] (rxs ((goodFrame.bytes t0).map .byte) nodeB))
     s.atBoundary = true ∧ s.inp.rxAns = (goodFrame.bytes s.par).map RxAns.byte ++ [] ∧ s.inp.inbAns = .ok :: [] ∧
     s.inp.script = List.replicate (goodFrame.turns s.par s.cfg) Stimulus.rxp ++ []) := by decide

theorem witness_CleanCloseAfterWholeFrames :
    (let fs := [goodFrame, foreignFrame]
     let s := script (List.replicate 26 .rxp) (inbs [.err ⟨3⟩, .ok] (rxs
       ((fs.map (fun f => (f.bytes t0).map RxAns.byte)).flatten ++ [.eos]) nodeB))
     s.atBoundary = true ∧ fs.length ≤ s.inp.inbAns.length ∧
     s.inp.rxAns = (fs.map (fun f => (f.bytes s.par).map RxAns.byte)).flatten ++ RxAns.eos :: [] ∧
     26 = (fs.map (fun f => f.turns s.par s.cfg)).sum + 1 ∧ s.inp.script = List.replicate 26 Stimulus.rxp ++ [] ∧
     logOfFrames s.par s.cfg fs s.inp.inbAns = [.engineErr ⟨3⟩, .dropFrameDest]) := by
  decide

/-- V-RX-3 and five bytes of a header; V-RX-9 and V-RX-8: no byte, and all but one, of a payload of three. -/
theorem witness_MidFrameCloseIsFatal :
    (let s := script (List.replicate 6 .rxp) (rxs ([0xA5, 1, 3, 0, 0x20].map .byte ++ [.eos]) nodeB)
     s.atBoundary = true ∧ s.inp.rxAns = [0xA5, 1, 3, 0, 0x20].map RxAns.byte ++ RxAns.eos :: [] ∧
     s.inp.script = List.replicate ([0xA5, 1, 3, 0, (0x20 : Byte)].length + 1) Stimulus.rxp ++ []) ∧
    (let s := script (List.replicate 10 .rxp) (rxs ([0xA5, 1, 3, 0, 0x20, 0x10, 0xAA, 0xBB].map .byte ++ [.eos]) nodeB)
     [0xA5, 1, 3, 0, 0x20, 0x10, 0xAA, 0xBB] = (serialize s.par 3 0x20 0x10).toList ++ [0xAA, 0xBB] ∧
     [(0xAA : Byte), 0xBB].length < (3 : Len).toNat ∧ ([] : Bytes).length < (3 : Len).toNat ∧
     s.inp.script = List.replicate (8 + 2) Stimulus.rxp ++ []) := by decide

/-- Node B with an accepted fragment to deliver. -/
def delivering : State :=
  script [.rxp] (inbs [.ok] (nodeB.setRx
    { nodeB.rx with phase := .dlv, hbuf := serialize t0 5 0x20 0x10, len := 5, src := 0x20, dst := 0x10
                    pbuf := [0x10, 0x20, 0x02, 0xAA, 0xBB], frag := [0xAA, 0xBB], bdst := 0x10 }))

theorem witness_RxWf : RxWf delivering := by
  constructor <;> decide

theorem witness_Wf : delivering.Wf :=
  ⟨by decide, witness_RxWf, by decide, by decide, by decide, by decide, by decide, fun h => absurd h (by decide)⟩

theorem witness_DeliveredFramesPassedEveryCheck :
    delivering.Wf ∧ get (fun t => t.out.deliveries) (step delivering) = some [[0xAA, 0xBB]] :=
  ⟨witness_Wf, by decide⟩

theorem witness_StepKeepsWf : delivering.Wf ∧ ∃ t, step delivering = .next t := ⟨witness_Wf, _, rfl⟩

theorem witness_StepRunsTheDecodedHeader :
    (let s := script [.rxpHeader] (rxs ([0xA5, 0x01, 0x05, 0x00, 0x20, 0x10, 0x10].map .byte) nodeB)
     s.atBoundary = true ∧ s.inp.script = .rxpHeader :: [] ∧
     s.inp.rxAns = (⟨0xA5, 0x01, 0x05, 0x00, 0x20, 0x10⟩ : Hdr6).toList.map RxAns.byte ++ [.byte 0x10]) ∧
    decode t0 .hdr6 [0xA5, 0x01, 0x05, 0x00, 0x20, 0x10] = .ok (.frame 5 0x20 0x10, []) := by decide

theorem witness_SequencingRegistersSelect :
    ((script [.rxp] nodeB).rx.state = .running ∧ (script [.rxp] nodeB).inp.script = .rxp :: []) ∧
    ((script [.tx] (sending .packet hello nodeA)).tx.state = .busy ∧
      (script [.tx] (sending .packet hello nodeA)).inp.script = .tx :: []) ∧
    ((script [.tx] nodeA).tx.state = .idle ∧ (script [.tx] nodeA).tx.starting = none ∧
      (script [.tx] nodeA).inp.sendReqs = []) ∧
    ((script [.tx] (waiting hello)).tx.state = .idle ∧ (script [.tx] (waiting hello)).tx.starting = some hello ∧
      (script [.tx] (waiting hello)).inp.script = .tx :: []) ∧
    ((script [.rxp] (stopped nodeB)).rx.state = .stopped ∧
      (script [.rxpHeader] (stopped nodeB)).inp.script = .rxpHeader :: []) ∧
    (script [.hdr (.serialize 0xFFFF 1 2)] nodeA).inp.script = .hdr (.serialize 0xFFFF 1 2) :: [] ∧
    ((script [.rxpHeader] (atStep .hdr 1 0 nodeB)).rx.state = .running ∧
      (script [.rxpHeader] (atStep .hdr 1 0 nodeB)).atBoundary = false) := by decide

/-- Five bytes are no header, so the whole-header turn takes one of them. -/
theorem witness_SequencingRegistersSelect_shortHeader :
    (let s := script [.rxpHeader] (rxs (List.replicate 5 (.byte 0xA5)) nodeB)
     s.rx.state = .running ∧ s.inp.script = .rxpHeader :: [] ∧
     ∀ (h : Hdr6) (more : List RxAns), s.inp.rxAns ≠ h.toList.map RxAns.byte ++ more) ∧
    get (fun t => (t.rx.cnt, t.out.inTaken))
      (step (script [.rxpHeader] (rxs (List.replicate 5 (.byte 0xA5)) nodeB))) = some (1, 1) := by
  refine ⟨⟨rfl, rfl, fun h more e => ?_⟩, by decide⟩
  have hl : 5 = ([h.b0, h.b1, h.b2, h.b3, h.b4, h.b5].map RxAns.byte ++ more).length := congrArg List.length e
  simp at hl

theorem witness_ArrivalsOnlyQueueAtTheirPort :
    (script [.rx (.byte 0xA5)] nodeB).inp.script = .rx (.byte 0xA5) :: [] ∧
    (script [.send [hello]] nodeA).inp.script = .send [hello] :: [] ∧
    (script [.start ⟨4⟩] nodeA).inp.script = .start ⟨4⟩ :: [] ∧
    (script [.cfg ⟨1, 2, true⟩] nodeA).inp.script = .cfg ⟨1, 2, true⟩ :: [] := by decide

theorem witness_ResetStartsANewConnection : (script [.rst] delivering).inp.script = .rst :: [] := by decide

theorem witness_ConfigurationChangesOnlyAtReset :
    get (fun t => t.cfg) (step (script [.rst] (nodeA.setInp { nodeA.inp with cfgPort := ⟨1, 2, true⟩ }))) =
      some ⟨1, 2, true⟩ ∧
    get (fun t => t.cfg) (step (script [.cfg ⟨1, 2, true⟩] nodeA)) = some nodeA.cfg := by decide

/-- A step for each of the three clauses. -/
theorem witness_StreamsAreNeverRewound :
    get (fun t => (t.inp.rxAns, t.out.inTaken)) (step (script [.rxp] (rxs [.byte 1, .byte 2] nodeB))) =
      some ([.byte 2], 1) ∧
    get (fun t => (t.inp.rxAns, t.rx.state)) (step (script [.rxp] (rxs [.eos, .err] nodeB))) = some ([.err], .stopped) ∧
    get (fun t => t.inp.rxAns) (step (script [.rx .eos] (rxs [.byte 1] nodeB))) = some [.byte 1, .eos] := by decide

/-- A send and a delivery in one block. -/
theorem witness_TransmitAndReceiveCommute :
    isTxOp (.txFrag hello) = true ∧ isRxOp .rxDlv = true ∧
    (let s := inbs [.ok] (writes [.ok] (sending .packet hello (atStep .dlv 0 5 nodeA)))
     get (fun t => t.out.writes.length) (exec (.txFrag hello) s) = some 1 ∧
     get (fun t => t.out.deliveries.length) (exec .rxDlv s) = some 1) ∧
    (∀ s1, ∃ t, exec .rxDlv s1 = .next t) ∧ ∀ s1, ∃ t, exec (.txDone ⟨7⟩) s1 = .next t :=
  ⟨rfl, rfl, by decide, fun _ => ⟨_, rfl⟩, fun _ => ⟨_, rfl⟩⟩

/-- Nothing pending, and a fragment pending whose packet is small enough. -/
theorem witness_NoRefusalWhileContractsHold :
    delivering.Wf ∧ (∀ f, FragAns.packet f ∈ delivering.inp.fragAns → f.length ≤ delivering.par.mtu) ∧
    delivering.tx.pend ≠ .packet ∧
    (let s := pulled hello .ok
     s.tx.pend = .packet ∧ (s.par.busEncode s.cfg.peerAddr s.cfg.localAddr s.cfg.pec s.tx.frag).length ≤ 65535) :=
  ⟨witness_Wf, fun _ h => absurd h List.not_mem_nil, by decide, rfl, by decide⟩

/-- A state for each clause: another phase, idle, each outcome not pending, no boundary. -/
theorem witness_UnselectedOperationsDoNothing :
    ¬(nodeB.rx.state = .running ∧ nodeB.rx.phase = .chk) ∧ nodeA.tx.state = .idle ∧
    (sending .packet hello nodeA).tx.pend ≠ .none ∧
    ((sending .none [] nodeA).tx.pend ≠ .packet ∧ (sending .none [] nodeA).tx.pend ≠ .writing) ∧
    (sending (.error ⟨9⟩) [] nodeA).tx.pend ≠ .complete ⟨9⟩ ∧ (sending (.complete ⟨7⟩) [] nodeA).tx.pend ≠ .error ⟨7⟩ ∧
    (atStep .hdr 1 0 nodeB).atBoundary = false := by decide

end Sys2Proof.Tests
end

section
/-! SUPPORT. TXF: what each operation can do, its frame, and when it is refused (41_outbound_framer.md R160 to R175). -/

namespace Sys2Proof.Machine

/-- Everything `TX.SEND` can do (R160, R170): call `FragStart`, go on waiting for it, or hold the request. -/
theorem exec_txSend_cases {bufs : List Bytes} {s t : State} (h : exec (.txSend bufs) s = .next t) :
    (s.tx.state = .idle ∧ s.tx.starting = none ∧ t = startTurn (beginStart bufs.flatten s)) ∨
    (s.tx.state = .idle ∧ s.tx.starting = some bufs.flatten ∧ t = startTurn s) ∨
    ((s.tx.state = .idle → ∃ msg, s.tx.starting = some msg ∧ bufs.flatten ≠ msg) ∧ t = holdRequest bufs s) := by
  have ht := (Host.Outcome.next.inj h).symm
  split at ht
  · exact .inl ⟨‹_›, ‹_›, ht⟩
  · split at ht
    · rename_i hm
      exact .inr (.inl ⟨‹_›, by rw [hm]; assumption, ht⟩)
    · exact .inr (.inr ⟨fun _ => ⟨_, ‹_›, ‹_›⟩, ht⟩)
  · rename_i busy
    exact .inr (.inr ⟨fun idle => absurd (busy.symm.trans idle) nofun, ht⟩)

/-- Everything `TX.PULL` can do when it is not refused (R161): take one of the producer's three answers, or nothing. -/
theorem exec_txPull_cases {s t : State} (h : exec .txPull s = .next t) :
    t = s ∨
    (∃ f more, s.tx.state = .busy ∧ s.tx.pend = .none ∧ s.inp.fragAns = .packet f :: more ∧ f.length ≤ s.par.mtu ∧
      t = (takeFragAns s).setTx { s.tx with frag := f, pend := .packet }) ∨
    (∃ tag more, s.tx.state = .busy ∧ s.tx.pend = .none ∧ s.inp.fragAns = .complete tag :: more ∧
      t = (takeFragAns s).setTx { s.tx with pend := .complete tag }) ∨
    (∃ e more, s.tx.state = .busy ∧ s.tx.pend = .none ∧ s.inp.fragAns = .error e :: more ∧
      t = (takeFragAns s).setTx { s.tx with pend := .error e }) := by
  simp only [exec, execTxPull] at h
  split at h
  · split at h
    · cases h
    · exact .inr (.inl ⟨_, _, ‹_›, ‹_›, ‹_›, by omega, (Host.Outcome.next.inj h).symm⟩)
  · exact .inr (.inr (.inl ⟨_, _, ‹_›, ‹_›, ‹_›, (Host.Outcome.next.inj h).symm⟩))
  · exact .inr (.inr (.inr ⟨_, _, ‹_›, ‹_›, ‹_›, (Host.Outcome.next.inj h).symm⟩))
  · exact .inl (Host.Outcome.next.inj h).symm

/-- A producer that keeps its contract is never refused (R168). -/
theorem exec_txPull_next {s : State} (h : ∀ f, FragAns.packet f ∈ s.inp.fragAns → f.length ≤ s.par.mtu) :
    ∃ t, exec .txPull s = .next t := by
  simp only [exec, execTxPull]
  split
  · rename_i f _ _ _ hf
    have hle : f.length ≤ s.par.mtu := h f (by simp [hf])
    exact ⟨_, if_neg (by omega)⟩
  all_goals exact ⟨_, rfl⟩

theorem exec_txPull_refused {s : State} {f : Bytes} {more : List FragAns} (hs : s.tx.state = .busy)
    (hp : s.tx.pend = .none) (ha : s.inp.fragAns = .packet f :: more) (hf : s.par.mtu < f.length) :
    exec .txPull s = .refused .fragmentTooLong := by
  simp [exec, execTxPull, hs, hp, ha, hf]

theorem exec_txFrag_packet {s : State} (f : Bytes) (hs : s.tx.state = .busy) (hp : s.tx.pend = .packet) :
    exec (.txFrag f) s = frameFragment f s := by
  simp [exec, execTxFrag, hs, hp]

theorem frameFragment_fits {s : State} {f : Bytes} (h : fits f s) :
    frameFragment f s = .next (writeTurn (beginWrite (busPacket f s) s)) := by
  obtain ⟨hf, hp⟩ := h
  rw [frameFragment, if_neg (by omega), if_neg (by omega)]

theorem frameFragment_fragmentTooLong {s : State} {f : Bytes} (h : s.par.mtu < f.length) :
    frameFragment f s = .refused .fragmentTooLong := if_pos h

theorem frameFragment_packetTooLong {s : State} {f : Bytes} (hf : f.length ≤ s.par.mtu)
    (hp : payMax < (busPacket f s).length) : frameFragment f s = .refused .packetTooLong := by
  rw [frameFragment, if_neg (by omega), if_pos hp]

/-- A fragment that is framed is within the contracts of R168 and R173. -/
theorem fits_of_frameFragment_next {s t : State} {f : Bytes} (h : frameFragment f s = .next t) : fits f s := by
  by_cases hf : s.par.mtu < f.length
  · rw [frameFragment_fragmentTooLong hf] at h
    cases h
  · by_cases hp : payMax < (busPacket f s).length
    · rw [frameFragment_packetTooLong (by omega) hp] at h
      cases h
    · exact ⟨by omega, by omega⟩

/-- Everything `TX.FRAG` can do when it is not refused (R162, R165): frame a pending fragment that fits, go on with the
write in flight, or nothing. -/
theorem exec_txFrag_cases {f : Bytes} {s t : State} (h : exec (.txFrag f) s = .next t) :
    t = s ∨
    (s.tx.state = .busy ∧ s.tx.pend = .packet ∧ fits f s ∧ t = writeTurn (beginWrite (busPacket f s) s)) ∨
    (s.tx.state = .busy ∧ s.tx.pend = .writing ∧ t = writeTurn s) := by
  simp only [exec, execTxFrag] at h
  split at h
  · have hfit := fits_of_frameFragment_next h
    rw [frameFragment_fits hfit] at h
    exact .inr (.inl ⟨‹_›, ‹_›, hfit, (Host.Outcome.next.inj h).symm⟩)
  · exact .inr (.inr ⟨‹_›, ‹_›, (Host.Outcome.next.inj h).symm⟩)
  · exact .inl (Host.Outcome.next.inj h).symm

/-- `TX.FRAG` on a fragment within its contracts is never refused (R168, R173). -/
theorem exec_txFrag_next {s : State} {f : Bytes} (h : s.tx.pend = .packet → fits f s) :
    ∃ t, exec (.txFrag f) s = .next t := by
  simp only [exec, execTxFrag]
  split
  · exact ⟨_, frameFragment_fits (h ‹_›)⟩
  all_goals exact ⟨_, rfl⟩

theorem exec_txDone_cases {tag : Tag} {s t : State} (h : exec (.txDone tag) s = .next t) :
    t = s ∨ ∃ done, s.tx.state = .busy ∧ s.tx.pend = .complete done ∧ t = endSend (.ok tag) s := by
  have ht := (Host.Outcome.next.inj h).symm
  split at ht
  · exact .inr ⟨_, ‹_›, ‹_›, ht⟩
  · exact .inl ht

theorem exec_txFerr_cases {e : FragError} {s t : State} (h : exec (.txFerr e) s = .next t) :
    t = s ∨ ∃ err, s.tx.state = .busy ∧ s.tx.pend = .error err ∧ t = endSend (.fragError e) s := by
  have ht := (Host.Outcome.next.inj h).symm
  split at ht
  · exact .inr ⟨_, ‹_›, ‹_›, ht⟩
  · exact .inl ht

theorem endSend_txKeeps (r : SendResult) (s : State) : TxKeeps s (endSend r s) := by
  constructor <;> rfl

theorem takeFragAns_setTx_txKeeps (r : TxRegs) (s : State) : TxKeeps s ((takeFragAns s).setTx r) := by
  constructor <;> rfl

theorem holdRequest_txKeeps (bufs : List Bytes) (s : State) : TxKeeps s (holdRequest bufs s) := by
  constructor <;> rfl

/-- R20, R85, R90: an operation of TXF keeps the frame of TXF. -/
theorem exec_txKeeps {i : Instr} {s t : State} (hi : isTxOp i = true) (h : exec i s = .next t) : TxKeeps s t := by
  cases i with
  | txSend bufs =>
    obtain ⟨-, -, rfl⟩ | ⟨-, -, rfl⟩ | ⟨-, rfl⟩ := exec_txSend_cases h
    · exact (beginStart_keeps _ s).trans (startTurn_keeps _)
    · exact startTurn_keeps s
    · exact holdRequest_txKeeps bufs s
  | txPull =>
    obtain rfl | ⟨_, _, -, -, -, -, rfl⟩ | ⟨_, _, -, -, -, rfl⟩ | ⟨_, _, -, -, -, rfl⟩ := exec_txPull_cases h
    · exact .refl t
    all_goals exact takeFragAns_setTx_txKeeps _ s
  | txFrag f =>
    obtain rfl | ⟨-, -, -, rfl⟩ | ⟨-, -, rfl⟩ := exec_txFrag_cases h
    · exact .refl t
    · exact (beginWrite_keeps _ s).trans (writeTurn_keeps _)
    · exact writeTurn_keeps s
  | txDone tag =>
    obtain rfl | ⟨_, -, -, rfl⟩ := exec_txDone_cases h
    · exact .refl t
    · exact endSend_txKeeps _ s
  | txFerr e =>
    obtain rfl | ⟨_, -, -, rfl⟩ := exec_txFerr_cases h
    · exact .refl t
    · exact endSend_txKeeps _ s
  | _ => cases hi

/-- Settles O19: the three refusals, each by the lemma of its operation. -/
theorem brokenContractsAreRefused : Obligations.BrokenContractsAreRefused := by
  refine ⟨fun s f more => exec_txPull_refused, fun s f hs hp hf => ?_, fun s f hs hp hf hl => ?_⟩
  · rw [exec_txFrag_packet f hs hp, frameFragment_fragmentTooLong hf]
  · rw [exec_txFrag_packet f hs hp, frameFragment_packetTooLong hf hl]

end Sys2Proof.Machine
end

section
/-! SUPPORT. RXP: the frame of each operation (42_inbound_parser.md R190 to R207). -/

namespace Sys2Proof.Machine

theorem atPhase_keeps {p : RxPhase} {f : State → State} {s : State} (h : RxKeeps s (f s)) :
    RxKeeps s (atPhase p f s) := by
  unfold atPhase
  split
  · exact h
  · exact .refl s

theorem filterFrame_keeps (s : State) : RxKeeps s (filterFrame s) := by
  unfold filterFrame
  split
  · exact dropFrame_keeps _ s
  · exact setRx_keeps _ s

theorem decodePayload_keeps (s : State) : RxKeeps s (decodePayload s) := by
  unfold decodePayload
  split
  · exact dropFrame_keeps _ s
  · exact setRx_keeps _ s

theorem recheckDest_keeps (s : State) : RxKeeps s (recheckDest s) := by
  unfold recheckDest
  split
  · exact dropFrame_keeps _ s
  · exact setRx_keeps _ s

theorem receiveHeader_keeps (h : Hdr6) (s : State) : RxKeeps s (receiveHeader h s) := by
  unfold receiveHeader
  split
  · exact (setRx_keeps _ s).trans (checkHeader_keeps _)
  · exact .refl s

/-- R20, R85, R90: an operation of RXP keeps the frame of RXP. -/
theorem exec_rxKeeps {i : Instr} {s t : State} (hi : isRxOp i = true) (h : exec i s = .next t) : RxKeeps s t := by
  cases i with
  | rxHdr => cases h; exact atPhase_keeps (readTurn_keeps ..)
  | rxChk => cases h; exact atPhase_keeps (checkHeader_keeps s)
  | rxPay => cases h; exact atPhase_keeps (readTurn_keeps ..)
  | rxFlt => cases h; exact atPhase_keeps (filterFrame_keeps s)
  | rxDec => cases h; exact atPhase_keeps (decodePayload_keeps s)
  | rxRck => cases h; exact atPhase_keeps (recheckDest_keeps s)
  | rxDlv => cases h; exact atPhase_keeps (deliverFragment_keeps s)
  | frame | frameBadMagic | frameBadVersion => cases h; exact receiveHeader_keeps _ s
  | _ => cases hi

end Sys2Proof.Machine
end

section
/-! SUPPORT. RXP keeps its invariant: how `RxWf` is met in each phase, then one lemma per operation. -/

namespace Sys2Proof.Machine

/-! ## How the invariant is met -/

/-- The invariant of RXP speaks of the parameters, the configuration and the registers of RXP alone. -/
theorem RxWf.congr {s t : State} (hs : RxWf s) (par : t.par = s.par) (cfg : t.cfg = s.cfg) (rx : t.rx = s.rx) :
    RxWf t := by
  obtain ⟨h1, h2, h3, h4, h5, h6, h7, h8, h9, h10⟩ := hs
  constructor <;> simpa only [par, cfg, rx]

/-- A stopped RXP says its cause and nothing else (R27). -/
theorem RxWf.of_stopped {s : State} (run : s.rx.state = .stopped) (cause : s.rx.cause ≠ .none) : RxWf s := by
  constructor <;> simp [run, cause]

theorem RxWf.of_hdr {s : State} (run : s.rx.state = .running) (cause : s.rx.cause = .none) (phase : s.rx.phase = .hdr)
    (cnt : s.rx.cnt.toNat < hdrW) : RxWf s := by
  constructor <;> simp [run, cause, phase, cnt, RxPhase.rank, RxPhase.code]

/-- At the start of a frame nothing is known of the registers yet. -/
theorem RxWf.of_boundary {s : State} (run : s.rx.state = .running) (cause : s.rx.cause = .none)
    (phase : s.rx.phase = .hdr) (cnt : s.rx.cnt = 0) : RxWf s :=
  .of_hdr run cause phase (by rw [cnt]; decide)

theorem RxWf.of_chk {s : State} (run : s.rx.state = .running) (cause : s.rx.cause = .none) (phase : s.rx.phase = .chk)
    (cnt : s.rx.cnt = 0) : RxWf s := by
  constructor <;> simp [run, cause, phase, cnt, RxPhase.rank, RxPhase.code]

theorem RxWf.of_pay {s : State} (run : s.rx.state = .running) (cause : s.rx.cause = .none) (phase : s.rx.phase = .pay)
    (cnt : s.rx.cnt.toNat < s.rx.len.toNat ∨ s.rx.cnt = 0) (buf : s.rx.cnt.toNat ≤ s.rx.pbuf.length)
    (legal : parse s.par s.rx.hbuf = .ok (s.rx.header s.par)) : RxWf s := by
  constructor <;> simp [run, cause, phase, buf, legal, RxPhase.rank, RxPhase.code]
  case payCount => exact cnt

/-- After the payload the count rests at 0 and the conditions only add up, phase by phase. -/
theorem RxWf.of_payload_in {s : State} (p : RxPhase) (late : 3 ≤ p.rank) (phase : s.rx.phase = p)
    (run : s.rx.state = .running) (cause : s.rx.cause = .none) (cnt : s.rx.cnt = 0)
    (legal : parse s.par s.rx.hbuf = .ok (s.rx.header s.par)) (full : s.rx.len.toNat ≤ s.rx.pbuf.length)
    (mine : 4 ≤ p.rank → s.rx.dst = s.cfg.localAddr)
    (decoded : 5 ≤ p.rank → s.par.busDecode s.cfg.pec s.rx.payload = some { frag := s.rx.frag, bdst := s.rx.bdst })
    (inner : 6 ≤ p.rank → s.rx.bdst = s.cfg.localAddr) : RxWf s := by
  subst phase
  exact
    { cause := by simp [run, cause]
      hdrCount := fun _ hp => absurd late (by rw [hp]; decide)
      payCount := fun _ _ => .inr cnt
      otherCount := fun _ _ _ => cnt
      legal := fun _ _ => legal
      payBuf := fun _ hp => absurd late (by rw [hp]; decide)
      fullBuf := fun _ _ => full
      mine := fun _ => mine
      decoded := fun _ => decoded
      inner := fun _ => inner }

/-! ## The shared operations -/

theorem stopRx_rxWf {c : RxCause} (hc : c ≠ .none) (s : State) : RxWf (stopRx c s) := .of_stopped rfl hc

theorem nextFrame_rxWf {s : State} (run : s.rx.state = .running) (cause : s.rx.cause = .none) : RxWf (nextFrame s) :=
  .of_boundary run cause rfl rfl

theorem atPhase_rxWf {p : RxPhase} {f : State → State} {s : State} (hs : RxWf s)
    (hf : s.rx.state = .running → s.rx.cause = .none → s.rx.phase = p → RxWf (f s)) : RxWf (atPhase p f s) := by
  unfold atPhase
  split
  · rename_i h
    obtain ⟨run, phase⟩ := rxAt_iff.mp h
    exact hf run (hs.cause.mp run) phase
  · exact hs

theorem causeOfParse_ne_none (e : ParseError) : causeOfParse e ≠ .none := by cases e <;> nofun

/-- A header that `parse` accepts has the two constants of the parameters (R141). -/
theorem parse_ok_constants {p : Params} {b : Hdr6} {h : Header} (hp : parse p b = .ok h) :
    h.magic = p.magic ∧ h.version = p.version := by
  unfold parse at hp
  split at hp
  · cases hp
  · rename_i hm
    split at hp
    · cases hp
    · rename_i hv
      cases hp
      exact ⟨not_not.mp hm, not_not.mp hv⟩

theorem cnt_succ_toNat {cnt : BitVec 16} (h : cnt.toNat + 1 < 65536) : (cnt + 1).toNat = cnt.toNat + 1 := by
  bv_omega

/-- A read keeps the invariant when its two ways on do: a byte in the middle, and the count reached (R56). The answers
taken and the bytes counted are no registers, and the two stops end in `STOPPED`. -/
theorem readTurn_rxWf {n : Nat} {next : RxPhase} {store : Byte → RxRegs → RxRegs} {short failed : RxCause} {s : State}
    (hs : RxWf s) (hshort : short ≠ .none) (hfailed : failed ≠ .none) (hcnt : ∀ b, (store b s.rx).cnt = s.rx.cnt)
    (full : n ≤ s.rx.cnt.toNat → RxWf (s.setRx { s.rx with phase := next, cnt := 0 }))
    (middle : ∀ b, s.rx.cnt.toNat + 1 < n → RxWf (s.setRx { store b s.rx with cnt := s.rx.cnt + 1 }))
    (last : ∀ b, s.rx.cnt.toNat < n → n ≤ s.rx.cnt.toNat + 1 →
      RxWf (s.setRx { store b s.rx with phase := next, cnt := 0 })) :
    RxWf (readTurn n next store short failed s) := by
  obtain ⟨h, he⟩ | ⟨-, -, he⟩ | ⟨b, more, hlt, -, he⟩ | ⟨more, -, -, he⟩ | ⟨more, -, -, he⟩ :=
    readTurn_cases n next store short failed s <;> rw [he]
  · exact full h
  · exact hs
  · set u := ((s.setInp { s.inp with rxAns := more }).setOut { s.out with inTaken := s.out.inTaken + 1 }).setRx
      (store b s.rx)
    have hu : u.rx.cnt = s.rx.cnt := hcnt b
    obtain ⟨h, ha⟩ | ⟨h, ha⟩ := advanceRead_cases n next u <;> rw [ha] <;> rw [hu] at h
    · exact (middle b h).congr rfl rfl (by rw [State.setRx_rx, hu]; rfl)
    · exact (last b hlt h).congr rfl rfl rfl
  · exact stopRx_rxWf hshort _
  · exact stopRx_rxWf hfailed _

/-! ## The operations of RXP -/

theorem readHeaderByte_rxWf {s : State} (run : s.rx.state = .running) (cause : s.rx.cause = .none)
    (phase : s.rx.phase = .hdr) (hs : RxWf s) : RxWf (readHeaderByte s) := by
  have heos : hdrEosCause s ≠ .none := by unfold hdrEosCause; split <;> decide
  refine readTurn_rxWf hs heos (by decide) (fun _ => rfl) (fun _ => .of_chk run cause rfl rfl) (fun b h => ?_)
    (fun b _ _ => .of_chk run cause rfl rfl)
  have hcnt := cnt_succ_toNat (h.trans (by decide))
  exact .of_hdr run cause phase (hcnt.trans_lt h)

/-- `RX.CHK` needs no more of the registers than that RXP runs: it sets all that the next phase speaks of (R192). -/
theorem checkHeader_rxWf {s : State} (run : s.rx.state = .running) (cause : s.rx.cause = .none) :
    RxWf (checkHeader s) := by
  unfold checkHeader
  split
  · exact stopRx_rxWf (causeOfParse_ne_none _) s
  · rename_i h hp
    obtain ⟨hm, hv⟩ := parse_ok_constants hp
    refine .of_pay run cause rfl (.inr rfl) (Nat.zero_le _) ?_
    simp [hp, RxRegs.header, ← hm, ← hv]

/-- The last byte of the payload, or none at length 0 (R203), makes `rx_pbuf` whole. -/
theorem readPayloadByte_rxWf {s : State} (run : s.rx.state = .running) (cause : s.rx.cause = .none)
    (phase : s.rx.phase = .pay) (hs : RxWf s) : RxWf (readPayloadByte s) := by
  have legal := hs.legal run (by rw [phase]; decide)
  have hbuf := hs.payBuf run phase
  have hlen (b : Byte) : (storeAt s.rx.pbuf s.rx.cnt.toNat b).length = s.rx.cnt.toNat + 1 := by simp [storeAt, hbuf]
  refine readTurn_rxWf hs (by decide) (by decide) (fun _ => rfl) (fun hfull => ?_) (fun b h => ?_) (fun b _ h => ?_)
  · exact .of_payload_in .flt (by decide) rfl run cause rfl legal (hfull.trans hbuf) nofun nofun nofun
  · have hcnt := cnt_succ_toNat (h.trans s.rx.len.isLt)
    exact .of_pay run cause phase (.inl (hcnt.trans_lt h)) (hcnt.trans (hlen b).symm).le legal
  · exact .of_payload_in .flt (by decide) rfl run cause rfl legal (h.trans (hlen b).symm.le) nofun nofun nofun

theorem filterFrame_rxWf {s : State} (run : s.rx.state = .running) (cause : s.rx.cause = .none)
    (phase : s.rx.phase = .flt) (hs : RxWf s) : RxWf (filterFrame s) := by
  have legal := hs.legal run (by rw [phase]; decide)
  have full := hs.fullBuf run (by rw [phase]; decide)
  have cnt := hs.otherCount run (by rw [phase]; nofun) (by rw [phase]; nofun)
  unfold filterFrame
  split
  · exact nextFrame_rxWf run cause
  · rename_i hdst
    exact .of_payload_in .dec (by decide) rfl run cause cnt legal full (fun _ => not_not.mp hdst) nofun nofun

theorem decodePayload_rxWf {s : State} (run : s.rx.state = .running) (cause : s.rx.cause = .none)
    (phase : s.rx.phase = .dec) (hs : RxWf s) : RxWf (decodePayload s) := by
  have legal := hs.legal run (by rw [phase]; decide)
  have full := hs.fullBuf run (by rw [phase]; decide)
  have mine := hs.mine run (by rw [phase]; decide)
  have cnt := hs.otherCount run (by rw [phase]; nofun) (by rw [phase]; nofun)
  unfold decodePayload
  split
  · exact nextFrame_rxWf run cause
  · rename_i d hd
    exact .of_payload_in .rck (by decide) rfl run cause cnt legal full (fun _ => mine) (fun _ => hd) nofun

theorem recheckDest_rxWf {s : State} (run : s.rx.state = .running) (cause : s.rx.cause = .none)
    (phase : s.rx.phase = .rck) (hs : RxWf s) : RxWf (recheckDest s) := by
  have legal := hs.legal run (by rw [phase]; decide)
  have full := hs.fullBuf run (by rw [phase]; decide)
  have mine := hs.mine run (by rw [phase]; decide)
  have decoded := hs.decoded run (by rw [phase]; decide)
  have cnt := hs.otherCount run (by rw [phase]; nofun) (by rw [phase]; nofun)
  unfold recheckDest
  split
  · exact nextFrame_rxWf run cause
  · rename_i hdst
    exact .of_payload_in .dlv (by decide) rfl run cause cnt legal full (fun _ => mine) (fun _ => decoded)
      (fun _ => not_not.mp hdst)

theorem deliverFragment_rxWf {s : State} (run : s.rx.state = .running) (cause : s.rx.cause = .none) (hs : RxWf s) :
    RxWf (deliverFragment s) := by
  unfold deliverFragment
  split
  · exact hs
  all_goals exact nextFrame_rxWf run cause

theorem receiveHeader_rxWf (h : Hdr6) {s : State} (hs : RxWf s) : RxWf (receiveHeader h s) := by
  unfold receiveHeader
  split
  · rename_i hb
    obtain ⟨run, -, -⟩ := atBoundary_iff.mp hb
    exact checkHeader_rxWf run (hs.cause.mp run)
  · exact hs

/-- Every operation of RXP, the wire rows among them, keeps the invariant of RXP. -/
theorem exec_rxOp_rxWf {i : Instr} {s t : State} (hi : isRxOp i = true) (hs : RxWf s) (h : exec i s = .next t) :
    RxWf t := by
  cases i with
  | rxHdr => cases h; exact atPhase_rxWf hs fun run cause phase => readHeaderByte_rxWf run cause phase hs
  | rxChk => cases h; exact atPhase_rxWf hs fun run cause _ => checkHeader_rxWf run cause
  | rxPay => cases h; exact atPhase_rxWf hs fun run cause phase => readPayloadByte_rxWf run cause phase hs
  | rxFlt => cases h; exact atPhase_rxWf hs fun run cause phase => filterFrame_rxWf run cause phase hs
  | rxDec => cases h; exact atPhase_rxWf hs fun run cause phase => decodePayload_rxWf run cause phase hs
  | rxRck => cases h; exact atPhase_rxWf hs fun run cause phase => recheckDest_rxWf run cause phase hs
  | rxDlv => cases h; exact atPhase_rxWf hs fun run cause _ => deliverFragment_rxWf run cause hs
  | frame | frameBadMagic | frameBadVersion => cases h; exact receiveHeader_rxWf _ hs
  | _ => cases hi

end Sys2Proof.Machine
end

section
/-! SUPPORT. TXF keeps its invariant: one lemma per operation. -/

namespace Sys2Proof.Machine

/-- The invariant of TXF speaks of the parameters, the configuration, the registers of TXF and the outbound stream
alone. -/
theorem TxWf.congr {s t : State} (hs : TxWf s) (par : t.par = s.par) (cfg : t.cfg = s.cfg) (tx : t.tx = s.tx)
    (out : t.out.outStream = s.out.outStream) : TxWf t := by
  obtain ⟨h1, h2, h3, h4, h5, h6⟩ := hs
  constructor <;> simpa only [par, cfg, tx, out]

/-- With no write in flight the invariant of TXF says nothing of the outbound stream. -/
theorem TxWf.of_not_writing {s : State} (hw : s.tx.pend ≠ .writing) (pendBusy : s.tx.pend ≠ .none → s.tx.state = .busy)
    (startIdle : s.tx.starting ≠ none → s.tx.state = .idle) (fragBound : s.tx.frag.length ≤ s.par.mtu)
    (pktBound : s.tx.pkt.length ≤ payMax) : TxWf s :=
  ⟨pendBusy, startIdle, fragBound, pktBound, fun h => absurd h hw, fun h => absurd h hw⟩

/-- In `IDLE` nothing is pending. -/
theorem TxWf.pend_none {s : State} (hs : TxWf s) (idle : s.tx.state = .idle) : s.tx.pend = .none := by
  by_contra h
  exact absurd (idle.symm.trans (hs.pendBusy h)) nofun

theorem endSend_txWf (r : SendResult) {s : State} (hs : TxWf s) : TxWf (endSend r s) :=
  .of_not_writing nofun nofun (fun _ => rfl) hs.fragBound hs.pktBound

theorem beginStart_txWf (msg : Bytes) {s : State} (hs : TxWf s) (idle : s.tx.state = .idle) :
    TxWf (beginStart msg s) := by
  have hp := hs.pend_none idle
  exact .of_not_writing (by simp [beginStart, hp]) hs.pendBusy (fun _ => idle) hs.fragBound hs.pktBound

theorem startTurn_txWf {s : State} (hs : TxWf s) : TxWf (startTurn s) := by
  obtain ⟨-, he⟩ | ⟨session, more, -, he⟩ := startTurn_cases s <;> rw [he]
  · exact hs
  · exact .of_not_writing nofun nofun nofun hs.fragBound hs.pktBound

/-- The write of a bus packet begins with nothing of its frame in the stream (R55, R162). -/
theorem beginWrite_txWf {pkt : Bytes} {s : State} (hs : TxWf s) (busy : s.tx.state = .busy)
    (hp : pkt.length ≤ payMax) : TxWf (beginWrite pkt s) where
  pendBusy _ := busy
  startIdle := hs.startIdle
  fragBound := hs.fragBound
  pktBound := hp
  header _ := rfl
  inFlight _ := ⟨by simp [beginWrite, TxRegs.frame], List.nil_suffix⟩

/-- Bytes of the frame in flight that follow what stands in the stream leave more of its front there (R29 (b)). -/
theorem take_suffix_append_slice {t : TxRegs} {out : Bytes} {n : Nat} (h : t.frame.take t.sent <:+ out)
    (hn : t.sent ≤ n) : t.frame.take n <:+ out ++ t.slice n := by
  obtain ⟨before, rfl⟩ := h
  exact ⟨before, by rw [List.append_assoc, take_sent_append_slice t hn]⟩

theorem writeTurn_txWf {s : State} (hs : TxWf s) (hw : s.tx.pend = .writing) : TxWf (writeTurn s) := by
  obtain ⟨hlt, hsuf⟩ := hs.inFlight hw
  obtain ⟨-, he⟩ | ⟨more, -, he⟩ | ⟨k, more, -, he⟩ | ⟨k, more, -, he⟩ := writeTurn_cases s <;> rw [he]
  · exact hs
  · exact .of_not_writing nofun nofun hs.startIdle hs.fragBound hs.pktBound
  · exact
      { pendBusy := hs.pendBusy, startIdle := hs.startIdle, fragBound := hs.fragBound, pktBound := hs.pktBound
        header := hs.header
        inFlight := fun _ => ⟨prefixLen_lt _ hlt, take_suffix_append_slice hsuf (sent_le_prefixLen _ _)⟩ }
  · exact .of_not_writing nofun nofun (fun _ => rfl) hs.fragBound hs.pktBound

/-- Every operation of TXF keeps the invariant of TXF. The bounds of the buffers rest on the two refusals (D14). -/
theorem exec_txOp_txWf {i : Instr} {s t : State} (hi : isTxOp i = true) (hs : TxWf s) (h : exec i s = .next t) :
    TxWf t := by
  cases i with
  | txSend bufs =>
    obtain ⟨idle, -, rfl⟩ | ⟨-, -, rfl⟩ | ⟨-, rfl⟩ := exec_txSend_cases h
    · exact startTurn_txWf (beginStart_txWf _ hs idle)
    · exact startTurn_txWf hs
    · exact hs.congr rfl rfl rfl rfl
  | txPull =>
    obtain rfl | ⟨f, _, busy, -, -, hf, rfl⟩ | ⟨tag, _, busy, -, -, rfl⟩ | ⟨e, _, busy, -, -, rfl⟩ :=
      exec_txPull_cases h
    · exact hs
    · exact .of_not_writing nofun (fun _ => busy) hs.startIdle hf hs.pktBound
    all_goals exact .of_not_writing nofun (fun _ => busy) hs.startIdle hs.fragBound hs.pktBound
  | txFrag f =>
    obtain rfl | ⟨busy, -, ⟨-, hpkt⟩, rfl⟩ | ⟨-, hw, rfl⟩ := exec_txFrag_cases h
    · exact hs
    · exact writeTurn_txWf (beginWrite_txWf hs busy hpkt) rfl
    · exact writeTurn_txWf hs hw
  | txDone tag =>
    obtain rfl | ⟨_, -, -, rfl⟩ := exec_txDone_cases h
    · exact hs
    · exact endSend_txWf _ hs
  | txFerr e =>
    obtain rfl | ⟨_, -, -, rfl⟩ := exec_txFerr_cases h
    · exact hs
    · exact endSend_txWf _ hs
  | _ => cases hi

end Sys2Proof.Machine
end

section
/-! SUPPORT. The block keeps its invariant, and under it and the contracts of the environment it is never refused. -/

namespace Sys2Proof.Machine

/-- The invariant of the block speaks of its registers and of the outbound stream alone. -/
theorem State.Wf.congr {s t : State} (hs : s.Wf) (par : t.par = s.par) (cfg : t.cfg = s.cfg) (tx : t.tx = s.tx)
    (rx : t.rx = s.rx) (out : t.out.outStream = s.out.outStream) : t.Wf :=
  ⟨by rw [par]; exact hs.mtu, hs.rx.congr par cfg rx, hs.tx.congr par cfg tx out⟩

/-- An operation is one of TXF, one of RXP, or a call on HDR. -/
theorem instr_cases (i : Instr) : isTxOp i = true ∨ isRxOp i = true ∨ ∃ c : HdrCall, i = c.toInstr := by
  cases i with
  | hdrSerialize len src dst => exact .inr (.inr ⟨.serialize len src dst, rfl⟩)
  | hdrParse b => exact .inr (.inr ⟨.parse b, rfl⟩)
  | txSend | txPull | txFrag | txDone | txFerr => exact .inl rfl
  | _ => exact .inr (.inl rfl)

/-- Every operation keeps the invariant: each agent keeps its own part and leaves the other's alone. -/
theorem exec_wf {i : Instr} {s t : State} (hs : s.Wf) (h : exec i s = .next t) : t.Wf := by
  obtain hi | hi | ⟨c, rfl⟩ := instr_cases i
  · have keeps := exec_txKeeps hi h
    exact ⟨by rw [keeps.par]; exact hs.mtu, hs.rx.congr keeps.par keeps.cfg keeps.rx, exec_txOp_txWf hi hs.tx h⟩
  · have keeps := exec_rxKeeps hi h
    exact ⟨by rw [keeps.par]; exact hs.mtu, exec_rxOp_rxWf hi hs.rx h,
      hs.tx.congr keeps.par keeps.cfg keeps.tx keeps.outStream⟩
  · rw [exec_hdrCall] at h
    cases h
    exact hs.congr rfl rfl rfl rfl rfl

/-- Reset makes the invariant hold whatever the unspecified registers come to hold (R31, R271). -/
theorem resetBlock_wf {s : State} (h : 1 ≤ s.par.mtu) : (resetBlock s).Wf :=
  ⟨h, .of_boundary rfl rfl rfl rfl, .of_not_writing nofun nofun nofun (Nat.zero_le _) (Nat.zero_le _)⟩

theorem stimulate_wf (ev : Stimulus) {s : State} (hs : s.Wf) : (stimulate ev s).Wf := by
  cases ev with
  | rst => exact resetBlock_wf hs.mtu
  | _ => exact hs.congr rfl rfl rfl rfl rfl

/-- Selecting an operation takes things from the ports and writes no register. -/
theorem fetch_wf {ev : Stimulus} {u v : State} {i : Instr} (hu : u.Wf) (h : fetch ev u = some (i, v)) : v.Wf := by
  obtain ⟨-, -, rfl, -⟩ | ⟨-, -, rfl, -⟩ | ⟨-, -, -, _, _, -, -, rfl⟩ | ⟨-, -, rfl, -⟩ | ⟨-, -, _, _, -, -, rfl⟩ |
    ⟨_, -, -, rfl⟩ := fetch_cases h
  all_goals exact hu.congr rfl rfl rfl rfl rfl

theorem popScript_wf {s : State} (hs : s.Wf) : (popScript s).Wf := hs.congr rfl rfl rfl rfl rfl

/-- Settles O51: an entry of the script runs one operation or acts at a port, and each keeps the invariant. -/
theorem stepKeepsWf : Obligations.StepKeepsWf := by
  intro s t hs h
  obtain ⟨-, he⟩ | ⟨ev, script, i, s', -, hf, he⟩ | ⟨ev, script, -, -, he⟩ := step_cases s
  · cases Host.Outcome.next.inj (he.symm.trans h)
    exact hs
  · exact exec_wf (fetch_wf (popScript_wf hs) hf) (he.symm.trans h)
  · cases Host.Outcome.next.inj (he.symm.trans h)
    exact stimulate_wf ev (popScript_wf hs)

/-- What an entry of the script selects is answered while the producer and the codec keep their contracts (R168, R173). -/
theorem exec_selected_next {ev : Stimulus} {u v : State} {i : Instr}
    (hfrag : ∀ f, FragAns.packet f ∈ u.inp.fragAns → f.length ≤ u.par.mtu)
    (hpkt : u.tx.pend = .packet → fits u.tx.frag u) (h : fetch ev u = some (i, v)) : ∃ t, exec i v = .next t := by
  obtain ⟨-, -, rfl, rfl⟩ | ⟨-, -, rfl, msg, -, rfl⟩ | ⟨-, -, -, bufs, _, -, rfl, rfl⟩ | ⟨-, -, rfl, rfl⟩ |
    ⟨-, -, hd, _, -, rfl, rfl⟩ | ⟨c, -, rfl, rfl⟩ := fetch_cases h
  · split
    · exact exec_txPull_next hfrag
    · exact exec_txFrag_next hpkt
    · exact exec_txFrag_next hpkt
    · exact ⟨_, rfl⟩
    · exact ⟨_, rfl⟩
  · exact ⟨_, rfl⟩
  · exact ⟨_, rfl⟩
  · exact exec_rxOp_next _ _ (isRxOp_phaseInstr _)
  · exact exec_rxOp_next _ _ (isRxOp_decodeHeader _ hd)
  · exact ⟨_, exec_hdrCall c _⟩

/-- Settles O55: the invariant bounds the pending fragment, the premises bound the rest of what TXF checks. -/
theorem noRefusalWhileContractsHold : Obligations.NoRefusalWhileContractsHold := by
  intro s hs hfrag hpkt
  obtain ⟨-, he⟩ | ⟨ev, script, i, s', -, hf, he⟩ | ⟨ev, script, -, -, he⟩ := step_cases s
  · exact ⟨_, he⟩
  · rw [he]
    exact exec_selected_next (u := popScript s) hfrag (fun hp => ⟨hs.tx.fragBound, hpkt hp⟩) hf
  · exact ⟨_, he⟩

end Sys2Proof.Machine
end

section
/-! SUPPORT. What no operation changes: the frames of the two agents, and the parameters and the configuration. -/

namespace Sys2Proof.Machine

/-- Settles O20: the frame of TXF, operation by operation. -/
theorem txfLeavesTheRestUnchanged : Obligations.TxfLeavesTheRestUnchanged := fun _ _ _ => exec_txKeeps

/-- Settles O36: the frame of RXP, operation by operation. -/
theorem rxpLeavesTheRestUnchanged : Obligations.RxpLeavesTheRestUnchanged := fun _ _ _ => exec_rxKeeps

/-- No operation writes a parameter or a configuration register (R21, R22). -/
theorem exec_par_cfg {i : Instr} {s t : State} (h : exec i s = .next t) : t.par = s.par ∧ t.cfg = s.cfg := by
  obtain hi | hi | ⟨c, rfl⟩ := instr_cases i
  · have keeps := exec_txKeeps hi h
    exact ⟨keeps.par, keeps.cfg⟩
  · have keeps := exec_rxKeeps hi h
    exact ⟨keeps.par, keeps.cfg⟩
  · rw [exec_hdrCall] at h
    cases h
    exact ⟨rfl, rfl⟩

/-- Selecting an operation writes neither. -/
theorem fetch_par_cfg {ev : Stimulus} {u v : State} {i : Instr} (h : fetch ev u = some (i, v)) :
    v.par = u.par ∧ v.cfg = u.cfg := by
  obtain ⟨-, -, rfl, -⟩ | ⟨-, -, rfl, -⟩ | ⟨-, -, -, _, _, -, -, rfl⟩ | ⟨-, -, rfl, -⟩ | ⟨-, -, _, _, -, -, rfl⟩ |
    ⟨_, -, -, rfl⟩ := fetch_cases h
  all_goals exact ⟨rfl, rfl⟩

/-- Of what happens at the ports, reset alone writes the configuration, from the CFG port (R31, R51). -/
theorem stimulate_par_cfg (ev : Stimulus) (s : State) :
    (stimulate ev s).par = s.par ∧
      ((stimulate ev s).cfg = s.cfg ∨ ev = .rst ∧ (stimulate ev s).cfg = CfgRegs.reset s.inp.cfgPort) := by
  cases ev with
  | rst => exact ⟨rfl, .inr ⟨rfl, rfl⟩⟩
  | _ => exact ⟨rfl, .inl rfl⟩

/-- Settles O52: operations write no configuration register, and of what else an entry of the script does only reset
does. -/
theorem configurationChangesOnlyAtReset : Obligations.ConfigurationChangesOnlyAtReset := by
  intro s t h
  obtain ⟨-, he⟩ | ⟨ev, script, i, u, -, hf, he⟩ | ⟨ev, script, hs, -, he⟩ := step_cases s
  · cases Host.Outcome.next.inj (he.symm.trans h)
    exact ⟨rfl, .inl rfl⟩
  · obtain ⟨hpar, hcfg⟩ := exec_par_cfg (he.symm.trans h)
    obtain ⟨hpar', hcfg'⟩ := fetch_par_cfg hf
    exact ⟨hpar.trans hpar', .inl (hcfg.trans hcfg')⟩
  · cases Host.Outcome.next.inj (he.symm.trans h)
    obtain ⟨hpar, hcfg | ⟨rfl, hcfg⟩⟩ := stimulate_par_cfg ev (popScript s)
    · exact ⟨hpar, .inl hcfg⟩
    · exact ⟨hpar, .inr ⟨script, hs, hcfg⟩⟩

end Sys2Proof.Machine
end

section
/-! SUPPORT. Reset (10_state.md R31, 70_reset_and_hazards.md R271). -/

namespace Sys2Proof.Machine

/-- The entry `RST` is reset. -/
theorem step_rst {s : State} {script : List Stimulus} (h : s.inp.script = .rst :: script) :
    step s = .next (resetBlock (popScript s)) := step_of_none h rfl

/-- Settles O48: the step is `resetBlock`, which sets each of these fields. -/
theorem resetStartsANewConnection : Obligations.ResetStartsANewConnection := fun _ _ h =>
  ⟨_, step_rst h, rfl, rfl, rfl, rfl, rfl, rfl, rfl, rfl, rfl, rfl, rfl, rfl, rfl⟩

/-- Settles O49: the reset values, field by field. -/
theorem resetStateValues : Obligations.ResetStateValues :=
  ⟨⟨rfl, rfl, rfl, rfl, rfl⟩, rfl, ⟨rfl, rfl⟩, rfl, rfl⟩

/-- Settles O50: RXP is at a frame boundary, TXF has nothing in flight, and `MTU` is written as a successor. -/
theorem resetStateIsWf : Obligations.ResetStateIsWf :=
  ⟨Nat.succ_pos _, .of_boundary rfl rfl rfl rfl, .of_not_writing nofun nofun nofun (Nat.zero_le _) (Nat.zero_le _)⟩

end Sys2Proof.Machine
end

section
/-! SUPPORT. How the sequencing registers select an operation, and that one they do not select does nothing (10_state.md
R26, 30_encoding.md R117). -/

namespace Sys2Proof.Machine

/-! ## What is selected -/

theorem fetchRx_running {s : State} (run : s.rx.state = .running) : fetchRx s = some (phaseInstr s.rx.phase, s) := by
  simp [fetchRx, run]

theorem fetchRx_stopped {s : State} (stop : s.rx.state = .stopped) : fetchRx s = none := by
  simp [fetchRx, stop]

theorem fetchTx_busy {s : State} (busy : s.tx.state = .busy) :
    fetchTx s = some (match s.tx.pend with
      | .none => .txPull
      | .packet => .txFrag s.tx.frag
      | .writing => .txFrag s.tx.frag
      | .complete tag => .txDone tag
      | .error e => .txFerr e, s) := by
  cases hp : s.tx.pend <;> simp [fetchTx, busy, hp]

theorem fetchTx_starting {s : State} {msg : Bytes} (idle : s.tx.state = .idle) (h : s.tx.starting = some msg) :
    fetchTx s = some (.txSend [msg], s) := by
  simp [fetchTx, idle, h]

theorem fetchTx_nothing {s : State} (idle : s.tx.state = .idle) (h : s.tx.starting = none)
    (none_held : s.inp.sendReqs = []) : fetchTx s = none := by
  simp [fetchTx, idle, h, none_held]

/-- Only six bytes at the front of the inbound stream are a header (R110). -/
theorem frontHeader_eq_none {as : List RxAns} (h : ∀ (hd : Hdr6) more, as ≠ hd.toList.map RxAns.byte ++ more) :
    frontHeader as = none := by
  unfold frontHeader
  split
  · exact absurd rfl (h ⟨_, _, _, _, _, _⟩ _)
  · rfl

theorem fetchHeader_not_boundary {s : State} (h : s.atBoundary = false) : fetchHeader s = none := by
  simp [fetchHeader, h]

theorem fetchHeader_no_header {s : State} (h : frontHeader s.inp.rxAns = none) : fetchHeader s = none := by
  simp [fetchHeader, h]

/-- Where no whole header can be taken, the whole-header turn selects what RXP's turn does (R26). -/
theorem fetch_rxpHeader {s : State} (h : fetchHeader s = none) : fetch .rxpHeader s = fetchRx s := by
  simp [fetch, h]

theorem fetch_rxpHeader_stopped {s : State} (stop : s.rx.state = .stopped) : fetch .rxpHeader s = none := by
  have hb : s.atBoundary = false := by simp [State.atBoundary, State.rxAt, stop]
  rw [fetch_rxpHeader (fetchHeader_not_boundary hb), fetchRx_stopped stop]

/-- Settles O46: each entry of the script fetches the operation named. -/
theorem sequencingRegistersSelect : Obligations.SequencingRegistersSelect := by
  refine fun s => ⟨fun run script hs => ?_, fun busy script hs => ?_, fun msg idle hm script hs => ?_,
    fun c script hs => ?_, fun script h => ?_⟩
  · have hrx : fetchRx (popScript s) = some (phaseInstr s.rx.phase, popScript s) := fetchRx_running run
    obtain hs | ⟨hs, hno⟩ := hs <;> rw [← popScript_eq hs]
    · exact step_of_fetch hs hrx
    · have hnone : fetchHeader (popScript s) = none := by
        obtain hb | hbytes := hno
        · exact fetchHeader_not_boundary hb
        · exact fetchHeader_no_header (frontHeader_eq_none hbytes)
      exact step_of_fetch hs ((fetch_rxpHeader hnone).trans hrx)
  · rw [← popScript_eq hs]
    exact step_of_fetch hs (fetchTx_busy (s := popScript s) busy)
  · rw [← popScript_eq hs]
    exact step_of_fetch hs (fetchTx_starting (s := popScript s) idle hm)
  · rw [← popScript_eq hs]
    cases c <;> exact step_of_fetch hs rfl
  · obtain ⟨idle, hm, hreq, hs⟩ | ⟨stop, hs | hs⟩ := h <;> rw [← popScript_eq hs]
    · exact step_of_none hs (fetchTx_nothing (s := popScript s) idle hm hreq)
    · exact step_of_none hs (fetchRx_stopped (s := popScript s) stop)
    · exact step_of_none hs (fetch_rxpHeader_stopped (s := popScript s) stop)

/-! ## What is not selected -/

theorem exec_phaseInstr_of_not {s : State} {p : RxPhase} (h : ¬(s.rx.state = .running ∧ s.rx.phase = p)) :
    exec (phaseInstr p) s = .next s := by
  have stays (f : State → State) : Host.Outcome.next (atPhase p f s) = (.next s : Host.Outcome State Fault Refusal) :=
    congrArg _ (if_neg (rxAt_iff.not.mpr h))
  cases p <;> exact stays _

theorem exec_txPull_of_not {s : State} (h : ¬(s.tx.state = .busy ∧ s.tx.pend = .none)) :
    exec .txPull s = .next s := by
  simp only [exec, execTxPull]
  split
  case h_4 => rfl
  all_goals exact absurd ⟨‹_›, ‹_›⟩ h

theorem exec_txFrag_of_not {s : State} (f : Bytes)
    (h : ¬(s.tx.state = .busy ∧ (s.tx.pend = .packet ∨ s.tx.pend = .writing))) : exec (.txFrag f) s = .next s := by
  simp only [exec, execTxFrag]
  split
  · exact absurd ⟨‹_›, .inl ‹_›⟩ h
  · exact absurd ⟨‹_›, .inr ‹_›⟩ h
  · rfl

theorem exec_txDone_of_not {s : State} (tag : Tag) (h : ¬(s.tx.state = .busy ∧ ∃ done, s.tx.pend = .complete done)) :
    exec (.txDone tag) s = .next s := by
  simp only [exec, execTxDone]
  split
  · exact absurd ⟨‹_›, _, ‹_›⟩ h
  · rfl

theorem exec_txFerr_of_not {s : State} (e : FragError) (h : ¬(s.tx.state = .busy ∧ ∃ err, s.tx.pend = .error err)) :
    exec (.txFerr e) s = .next s := by
  simp only [exec, execTxFerr]
  split
  · exact absurd ⟨‹_›, _, ‹_›⟩ h
  · rfl

/-- In `IDLE` no operation of TXF but `TX.SEND` is enabled (R117). -/
theorem exec_txOp_idle {s : State} {i : Instr} (idle : s.tx.state = .idle) (hi : isTxOp i = true)
    (hsend : ∀ bufs, i ≠ .txSend bufs) : exec i s = .next s := by
  have not_busy {p : Prop} : ¬(s.tx.state = .busy ∧ p) := fun ⟨busy, _⟩ => absurd (idle.symm.trans busy) nofun
  cases i with
  | txSend bufs => exact absurd rfl (hsend bufs)
  | txPull => exact exec_txPull_of_not not_busy
  | txFrag f => exact exec_txFrag_of_not f not_busy
  | txDone tag => exact exec_txDone_of_not tag not_busy
  | txFerr e => exact exec_txFerr_of_not e not_busy
  | _ => cases hi

/-- Away from a frame boundary no header is received whole. -/
theorem receiveHeader_not_boundary {s : State} (hd : Hdr6) (h : s.atBoundary = false) : receiveHeader hd s = s := by
  simp [receiveHeader, h]

/-- Settles O56: each operation by the lemma that says when it does not happen. -/
theorem unselectedOperationsDoNothing : Obligations.UnselectedOperationsDoNothing := by
  refine fun s => ⟨fun ph => exec_phaseInstr_of_not, fun idle i => exec_txOp_idle idle,
    fun hp => exec_txPull_of_not fun ⟨_, h⟩ => hp h, fun hp hw f => exec_txFrag_of_not f ?_,
    fun hp tag => exec_txDone_of_not tag fun ⟨_, done, h⟩ => hp done h,
    fun hp e => exec_txFerr_of_not e fun ⟨_, err, h⟩ => hp err h, fun hb m v len src dst => ?_⟩
  · rintro ⟨-, h | h⟩
    · exact hp h
    · exact hw h
  · have stays (hd : Hdr6) : Host.Outcome.next (receiveHeader hd s) = (.next s : Host.Outcome State Fault Refusal) :=
      congrArg _ (receiveHeader_not_boundary hd hb)
    exact ⟨stays _, stays _, stays _⟩

end Sys2Proof.Machine
end

section
/-! SUPPORT. The write in flight (12_interfaces.md R55, 41_outbound_framer.md R162, R165): where the frame stands in the
outbound stream after each answer of the channel. -/

namespace Sys2Proof.Machine

/-! ## The parts of the frame in flight -/

/-- A draw between what stands in the stream and the whole frame is not cut (U6). -/
theorem prefixLen_eq {t : TxRegs} {k : Nat} (hs : t.sent ≤ k) (hk : k < t.frame.length) : prefixLen t k = k := by
  unfold prefixLen
  omega

/-- The bytes up to `n` that follow what stands of the frame leave the first `n` bytes of it there. -/
theorem stream_append_slice {t : TxRegs} {out before : Bytes} {n : Nat} (h : before ++ t.frame.take t.sent = out)
    (hn : t.sent ≤ n) : out ++ t.slice n = before ++ t.frame.take n := by
  rw [← h, List.append_assoc, take_sent_append_slice t hn]

theorem slice_of_sent_zero {t : TxRegs} (h : t.sent = 0) (n : Nat) : t.slice n = t.frame.take n := by
  rw [TxRegs.slice, h, List.drop_zero]

theorem exec_txFrag_writing {s : State} (f : Bytes) (busy : s.tx.state = .busy) (hw : s.tx.pend = .writing) :
    exec (.txFrag f) s = .next (writeTurn s) := by
  simp [exec, execTxFrag, busy, hw]

/-! ## The answers of the channel -/

theorem writeTurn_waiting {s : State} (h : s.inp.writeAns = []) : writeTurn s = s := by
  simp [writeTurn, h]

theorem writeTurn_ok {s : State} {more : List WriteAns} (h : s.inp.writeAns = .ok :: more) :
    writeTurn s = appendOut (s.tx.slice s.tx.frame.length)
      ((s.setInp { s.inp with writeAns := more }).setTx { s.tx with pend := .none, sent := 0 }) := by
  simp [writeTurn, h]

theorem writeTurn_part {s : State} {k : Nat} {more : List WriteAns} (h : s.inp.writeAns = .part k :: more) :
    writeTurn s = appendOut (s.tx.slice (prefixLen s.tx (s.tx.sent + k)))
      ((s.setInp { s.inp with writeAns := more }).setTx { s.tx with sent := prefixLen s.tx (s.tx.sent + k) }) := by
  simp [writeTurn, h]

theorem writeTurn_fail {s : State} {k : Nat} {more : List WriteAns} (h : s.inp.writeAns = .fail k :: more) :
    writeTurn s = endSend .txError (appendOut (s.tx.slice (prefixLen s.tx k))
      (s.setInp { s.inp with writeAns := more })) := by
  simp [writeTurn, h]

/-- Settles O17: the four answers to the write in flight; `TxWf` says what of the frame stands in the stream. -/
theorem writeInFlightCompletesTheFrame : Obligations.WriteInFlightCompletesTheFrame := by
  intro s f busy hw hs
  obtain ⟨hlt, before, hbefore⟩ := hs.inFlight hw
  have keeps := writeTurn_keeps s
  rw [exec_txFrag_writing f busy hw]
  refine ⟨fun h => ?_, fun more h => ?_, fun k more h => ?_, fun k more h => ?_⟩
  · rw [writeTurn_waiting h]
  · have hout := stream_append_slice hbefore hlt.le
    rw [List.take_length] at hout
    refine ⟨_, before, rfl, ?_, ?_, hbefore.symm, ?_, keeps⟩ <;> rw [writeTurn_ok h]
    · rfl
    · rfl
    · simp [appendOut, hout]
  · refine ⟨_, prefixLen s.tx (s.tx.sent + k), rfl, ?_, sent_le_prefixLen _ _, prefixLen_lt _ hlt,
      prefixLen_eq (Nat.le_add_right _ _), ?_, ?_, keeps⟩ <;> rw [writeTurn_part h] <;> rfl
  · have hout := stream_append_slice hbefore (sent_le_prefixLen s.tx k)
    refine ⟨_, before, prefixLen s.tx k, rfl, ?_, sent_le_prefixLen _ _, prefixLen_lt _ hlt, prefixLen_eq,
      hbefore.symm, ?_, ?_, keeps⟩ <;> rw [writeTurn_fail h]
    · rfl
    · simp [endSend, respond, appendOut, hout]
    · rfl

/-! ## The first turn -/

theorem beginWrite_frame (f : Bytes) (s : State) : (beginWrite (busPacket f s) s).tx.frame = frameFor f s := rfl

/-- While a write is in flight `TX.FRAG` is next (R29 (b), R64). -/
theorem fetchTx_writing {s : State} (busy : s.tx.state = .busy) (hw : s.tx.pend = .writing) :
    fetchTx s = some (.txFrag s.tx.frag, s) := by
  rw [fetchTx_busy busy, hw]

/-- Settles O57: the first turn is `beginWrite`, which puts nothing of the frame in the stream, and then a turn of the
write in flight. -/
theorem firstWriteTurnStaysInFlight : Obligations.FirstWriteTurnStaysInFlight := by
  intro s f busy hp hfit
  set u := beginWrite (busPacket f s) s with hu
  have keeps : TxKeeps s (writeTurn u) := (beginWrite_keeps _ s).trans (writeTurn_keeps u)
  have hframe : u.tx.frame = frameFor f s := beginWrite_frame f s
  rw [exec_txFrag_packet f busy hp, frameFragment_fits hfit, ← hu]
  refine ⟨fun h => ?_, fun k more h => ?_⟩
  · have he : writeTurn u = u := writeTurn_waiting h
    rw [he] at keeps ⊢
    exact ⟨u, rfl, hframe, rfl, rfl, rfl, fetchTx_writing busy rfl, rfl, keeps⟩
  · have he := writeTurn_part (s := u) h
    have hsent : u.tx.sent = 0 := rfl
    have hlt : u.tx.sent < u.tx.frame.length := by simp [hu, beginWrite, TxRegs.frame]
    have hn := hframe ▸ prefixLen_lt (u.tx.sent + k) hlt
    have hk : k < (frameFor f s).length → prefixLen u.tx (u.tx.sent + k) = k := by
      rw [← hframe, hsent, Nat.zero_add]
      exact prefixLen_eq (Nat.zero_le k)
    refine ⟨_, prefixLen u.tx (u.tx.sent + k), rfl, ?_, ?_, hn, hk, ?_, ?_, ?_, ?_, keeps⟩ <;> rw [he]
    · exact hframe
    · rfl
    · rfl
    · rfl
    · exact fetchTx_writing busy rfl
    · rw [slice_of_sent_zero hsent, hframe]
      rfl

end Sys2Proof.Machine
end

section
/-! SUPPORT. A header read byte by byte and then checked, against one read whole (10_state.md R26, 42_inbound_parser.md
R191, R192). -/

namespace Sys2Proof.Machine

/-- `s` with `k` bytes of a header taken, which have made `hbuf` of `rx_hbuf`; `rest` is what is left of the inbound
stream and `script` of the script. -/
def headerTaken (s : State) (k : Nat) (hbuf : Hdr6) (rest : List RxAns) (script : List Stimulus) : State :=
  ((s.setRx { s.rx with cnt := BitVec.ofNat 16 k, hbuf := hbuf }).setInp
    { s.inp with rxAns := rest, script := script }).setOut { s.out with inTaken := s.out.inTaken + k }

/-- `s` with a header whole in `rx_hbuf`, not yet checked. -/
def headerIn (s : State) (hd : Hdr6) (rest : List RxAns) (script : List Stimulus) : State :=
  (headerTaken s hdrW hd rest script).setRx { s.rx with hbuf := hd, phase := .chk, cnt := 0 }

/-- A turn of a read that meets a byte before the count is reached (R56). -/
theorem readTurn_byte {n : Nat} {next : RxPhase} {store : Byte → RxRegs → RxRegs} {short failed : RxCause} {s : State}
    {b : Byte} {more : List RxAns} (hlt : s.rx.cnt.toNat < n) (h : s.inp.rxAns = .byte b :: more) :
    readTurn n next store short failed s = advanceRead n next
      (((s.setInp { s.inp with rxAns := more }).setOut { s.out with inTaken := s.out.inTaken + 1 }).setRx
        (store b s.rx)) := by
  simp [readTurn, readNext, h, popRx, countTaken, Nat.not_le.mpr hlt]

/-- RXP's turn while `RUNNING` is the operation of its phase (R117, R190). -/
theorem step_rxp {s : State} {script : List Stimulus} (run : s.rx.state = .running)
    (h : s.inp.script = .rxp :: script) : step s = exec (phaseInstr s.rx.phase) (popScript s) :=
  step_of_fetch h (fetchRx_running (s := popScript s) run)

section
variable {s : State} {k : Nat} {hbuf hd : Hdr6} {b : Byte} {rest : List RxAns} {script : List Stimulus}

theorem ofNat16_toNat_of_lt_hdrW (hk : k < hdrW) : (BitVec.ofNat 16 k).toNat = k :=
  ofNat16_toNat (hk.le.trans (by decide))

/-- RXP's turn in phase `HDR` with a byte there takes it (R191). -/
theorem step_headerTaken (hk : k < hdrW) (run : s.rx.state = .running) (phase : s.rx.phase = .hdr) :
    step (headerTaken s k hbuf (.byte b :: rest) (.rxp :: script)) =
      .next (advanceRead hdrW .chk ((headerTaken s (k + 1) hbuf rest script).setRx
        { s.rx with cnt := BitVec.ofNat 16 k, hbuf := hbuf.set k b })) := by
  have hcnt := ofNat16_toNat_of_lt_hdrW hk
  have hp : (headerTaken s k hbuf (.byte b :: rest) (.rxp :: script)).rx.phase = .hdr := phase
  rw [step_rxp (s := headerTaken s k hbuf _ _) run rfl, hp]
  refine congrArg _ ((atPhase_of (s := headerTaken s k hbuf _ _) readHeaderByte run phase).trans
    ((readTurn_byte (s := headerTaken s k hbuf _ _) (hcnt.trans_lt hk) rfl).trans ?_))
  show advanceRead hdrW .chk ((headerTaken s (k + 1) hbuf rest script).setRx
    { s.rx with cnt := BitVec.ofNat 16 k, hbuf := hbuf.set (BitVec.ofNat 16 k).toNat b }) = _
  rw [hcnt]

theorem step_headerTaken_middle (hk : k + 1 < hdrW) (run : s.rx.state = .running) (phase : s.rx.phase = .hdr) :
    step (headerTaken s k hbuf (.byte b :: rest) (.rxp :: script)) =
      .next (headerTaken s (k + 1) (hbuf.set k b) rest script) := by
  have hcnt := ofNat16_toNat_of_lt_hdrW (Nat.lt_of_succ_lt hk)
  rw [step_headerTaken (Nat.lt_of_succ_lt hk) run phase, advanceRead, if_pos (by rw [State.setRx_rx, hcnt]; exact hk)]
  simp [headerTaken, BitVec.ofNat_add, State.setRx, State.setInp, State.setOut]

theorem step_headerTaken_last (run : s.rx.state = .running) (phase : s.rx.phase = .hdr) :
    step (headerTaken s 5 hbuf (.byte b :: rest) (.rxp :: script)) =
      .next (headerIn s (hbuf.set 5 b) rest script) := by
  rw [step_headerTaken (by decide) run phase]
  rfl

/-- RXP's turn in phase `CHK` checks the header (R192). -/
theorem step_headerIn (run : s.rx.state = .running) :
    step (headerIn s hd rest (.rxp :: script)) = .next (checkHeader (headerIn s hd rest script)) := by
  rw [step_rxp (s := headerIn s hd _ _) run rfl]
  exact congrArg _ (atPhase_of (s := headerIn s hd _ _) checkHeader run rfl)

theorem fetchHeader_of_front (hb : s.atBoundary = true) (h : s.inp.rxAns = hd.toList.map RxAns.byte ++ rest) :
    fetchHeader s = some (decodeHeader s.par hd, countTaken hdrW (s.setInp { s.inp with rxAns := rest })) := by
  have hfront : frontHeader s.inp.rxAns = some (hd, rest) := congrArg frontHeader h
  simp [fetchHeader, hb, hfront]

/-- The whole-header turn at a frame boundary takes six bytes and checks them (R84, R192). -/
theorem step_wholeHeader (hb : s.atBoundary = true) (h : s.inp.rxAns = hd.toList.map RxAns.byte ++ rest)
    (hs : s.inp.script = .rxpHeader :: script) : step s = .next (checkHeader (headerIn s hd rest script)) := by
  have hf := fetchHeader_of_front (s := popScript s) hb h
  rw [step_of_fetch (s' := countTaken hdrW _) hs (by rw [fetch, hf]), exec_decodeHeader, popScript_eq hs]
  · exact congrArg _ (if_pos hb)
  · rfl

/-- At a frame boundary no byte of the header is taken. -/
theorem headerTaken_zero (cnt : s.rx.cnt = 0) :
    headerTaken s 0 s.rx.hbuf s.inp.rxAns script = s.setInp { s.inp with script := script } := by
  rw [headerTaken, ← show s.rx.cnt = BitVec.ofNat 16 0 from cnt]
  rfl

end

/-- Settles O34: six turns take the six bytes, the seventh checks them, and the whole-header turn comes to the same
check. -/
theorem wholeHeaderTurnEqualsByteTurns : Obligations.WholeHeaderTurnEqualsByteTurns := by
  intro s hd more script hb h
  obtain ⟨run, phase, cnt⟩ := atBoundary_iff.mp hb
  have whole := step_wholeHeader (s := s.setInp { s.inp with script := .rxpHeader :: script }) hb h rfl
  rw [runSteps_next 0 whole, ← headerTaken_zero cnt, h]
  exact calc
    runSteps 7 _ = runSteps 6 _ := runSteps_next 6 (step_headerTaken_middle (by decide) run phase)
    _ = runSteps 5 _ := runSteps_next 5 (step_headerTaken_middle (by decide) run phase)
    _ = runSteps 4 _ := runSteps_next 4 (step_headerTaken_middle (by decide) run phase)
    _ = runSteps 3 _ := runSteps_next 3 (step_headerTaken_middle (by decide) run phase)
    _ = runSteps 2 _ := runSteps_next 2 (step_headerTaken_middle (by decide) run phase)
    _ = runSteps 1 _ := runSteps_next 1 (step_headerTaken_last run phase)
    _ = runSteps 0 _ := runSteps_next 0 (step_headerIn run)

end Sys2Proof.Machine
end

section
/-! SUPPORT. TXF and RXP share nothing that either writes (10_state.md R20, 20_memory.md R89, R90): each runs on its own
part of the state, so their operations commute. -/

namespace Sys2Proof.Machine

/-- The state with TXF, its ports and what neither agent writes from `a`, and with RXP and its ports from `b` (R20). -/
def mergeAgents (a b : State) : State :=
  { par := a.par, cfg := a.cfg, tx := a.tx, rx := b.rx, draws := a.draws
    inp := { a.inp with rxAns := b.inp.rxAns, inbAns := b.inp.inbAns }
    out := { a.out with inTaken := b.out.inTaken, deliveries := b.out.deliveries, log := b.out.log } }

theorem mergeAgents_of_txKeeps {s t : State} (h : TxKeeps s t) : mergeAgents t s = t := by
  obtain ⟨-, -, rx, -, -, -, rxAns, inbAns, inTaken, deliveries, log, -, -⟩ := h
  rw [mergeAgents, ← rx, ← rxAns, ← inbAns, ← inTaken, ← deliveries, ← log]

theorem mergeAgents_of_rxKeeps {s t : State} (h : RxKeeps s t) : mergeAgents s t = t := by
  obtain ⟨par, cfg, tx, draws, script, cfgPort, sendReqs, startAns, fragAns, writeAns, outStream, fragStarts,
    fragNexts, writes, sendResults, hdrResults, -, -⟩ := h
  exact State.ext_parts par.symm cfg.symm tx.symm rfl
    (Inputs.ext_parts script.symm cfgPort.symm sendReqs.symm startAns.symm fragAns.symm writeAns.symm rfl rfl)
    (Outputs.ext_parts outStream.symm rfl fragStarts.symm fragNexts.symm writes.symm rfl rfl sendResults.symm
      hdrResults.symm) draws.symm

/-- Change the next state of an outcome. -/
def mapNext (f : State → State) : Host.Outcome State Fault Refusal → Host.Outcome State Fault Refusal
  | .next s => .next (f s)
  | .fault r => .fault r
  | .refused r => .refused r

/-! ## TXF runs on its own part of the state -/

@[simp] theorem mergeAgents_par (a b : State) : (mergeAgents a b).par = a.par := rfl
@[simp] theorem mergeAgents_cfg (a b : State) : (mergeAgents a b).cfg = a.cfg := rfl
@[simp] theorem mergeAgents_tx (a b : State) : (mergeAgents a b).tx = a.tx := rfl
@[simp] theorem mergeAgents_rx (a b : State) : (mergeAgents a b).rx = b.rx := rfl
@[simp] theorem mergeAgents_startAns (a b : State) : (mergeAgents a b).inp.startAns = a.inp.startAns := rfl
@[simp] theorem mergeAgents_fragAns (a b : State) : (mergeAgents a b).inp.fragAns = a.inp.fragAns := rfl
@[simp] theorem mergeAgents_writeAns (a b : State) : (mergeAgents a b).inp.writeAns = a.inp.writeAns := rfl
@[simp] theorem mergeAgents_inbAns (a b : State) : (mergeAgents a b).inp.inbAns = b.inp.inbAns := rfl

section
variable (s u : State)

theorem startTurn_mergeAgents : startTurn (mergeAgents s u) = mergeAgents (startTurn s) u := by
  simp only [startTurn, mergeAgents_startAns]
  split <;> rfl

theorem writeTurn_mergeAgents : writeTurn (mergeAgents s u) = mergeAgents (writeTurn s) u := by
  simp only [writeTurn, mergeAgents_writeAns]
  split <;> rfl

theorem frameFragment_mergeAgents (f : Bytes) :
    frameFragment f (mergeAgents s u) = mapNext (mergeAgents · u) (frameFragment f s) := by
  have hp : busPacket f (mergeAgents s u) = busPacket f s := rfl
  simp only [frameFragment, hp, mergeAgents_par]
  split
  · rfl
  · split
    · rfl
    · exact congrArg _ (writeTurn_mergeAgents (beginWrite (busPacket f s) s) u)

/-- An operation of TXF in a merged state does to TXF what it does in TXF's own, a refusal among it. -/
theorem exec_txOp_mergeAgents {i : Instr} (hi : isTxOp i = true) :
    exec i (mergeAgents s u) = mapNext (mergeAgents · u) (exec i s) := by
  cases i with
  | txSend bufs =>
    simp only [exec, execTxSend, mergeAgents_tx]
    split
    · exact congrArg _ (startTurn_mergeAgents (beginStart bufs.flatten s) u)
    · split
      · exact congrArg _ (startTurn_mergeAgents s u)
      · rfl
    · rfl
  | txPull =>
    simp only [exec, execTxPull, mergeAgents_tx, mergeAgents_fragAns, mergeAgents_par]
    split
    · rw [apply_ite (mapNext _)]
      rfl
    all_goals rfl
  | txFrag f =>
    simp only [exec, execTxFrag, mergeAgents_tx]
    split
    · exact frameFragment_mergeAgents s u f
    · exact congrArg _ (writeTurn_mergeAgents s u)
    · rfl
  | txDone | txFerr =>
    simp only [exec, execTxDone, execTxFerr, mergeAgents_tx]
    split <;> rfl
  | _ => cases hi

end

/-! ## RXP runs on its own part of the state -/

section
variable (u s : State)

theorem advanceRead_mergeAgents (n : Nat) (next : RxPhase) :
    advanceRead n next (mergeAgents u s) = mergeAgents u (advanceRead n next s) := by
  simp only [advanceRead, mergeAgents_rx, apply_ite (mergeAgents u)]
  rfl

theorem readTurn_mergeAgents (n : Nat) (next : RxPhase) (store : Byte → RxRegs → RxRegs) (short failed : RxCause) :
    readTurn n next store short failed (mergeAgents u s) = mergeAgents u (readTurn n next store short failed s) := by
  have hr : readNext n (mergeAgents u s) = readNext n s := rfl
  simp only [readTurn, hr]
  split
  case h_3 b _ => exact advanceRead_mergeAgents u ((countTaken 1 (popRx s)).setRx (store b s.rx)) n next
  all_goals rfl

theorem deliverFragment_mergeAgents : deliverFragment (mergeAgents u s) = mergeAgents u (deliverFragment s) := by
  simp only [deliverFragment, mergeAgents_inbAns]
  split <;> rfl

/-! What RXP reads of the parameters and the configuration is to be the same on both sides. -/

variable {u s}

theorem checkHeader_mergeAgents (par : u.par = s.par) :
    checkHeader (mergeAgents u s) = mergeAgents u (checkHeader s) := by
  simp only [checkHeader, mergeAgents_par, mergeAgents_rx, par]
  split <;> rfl

theorem filterFrame_mergeAgents (cfg : u.cfg = s.cfg) :
    filterFrame (mergeAgents u s) = mergeAgents u (filterFrame s) := by
  simp only [filterFrame, mergeAgents_cfg, mergeAgents_rx, cfg]
  split <;> rfl

theorem decodePayload_mergeAgents (par : u.par = s.par) (cfg : u.cfg = s.cfg) :
    decodePayload (mergeAgents u s) = mergeAgents u (decodePayload s) := by
  simp only [decodePayload, mergeAgents_par, mergeAgents_cfg, mergeAgents_rx, par, cfg]
  split <;> rfl

theorem recheckDest_mergeAgents (cfg : u.cfg = s.cfg) :
    recheckDest (mergeAgents u s) = mergeAgents u (recheckDest s) := by
  simp only [recheckDest, mergeAgents_cfg, mergeAgents_rx, cfg]
  split <;> rfl

theorem atPhase_mergeAgents (p : RxPhase) {f : State → State} (h : f (mergeAgents u s) = mergeAgents u (f s)) :
    atPhase p f (mergeAgents u s) = mergeAgents u (atPhase p f s) := by
  have hat : (mergeAgents u s).rxAt p = s.rxAt p := rfl
  simp only [atPhase, hat, h]
  split <;> rfl

theorem receiveHeader_mergeAgents (hd : Hdr6) (par : u.par = s.par) :
    receiveHeader hd (mergeAgents u s) = mergeAgents u (receiveHeader hd s) := by
  have hat : (mergeAgents u s).atBoundary = s.atBoundary := rfl
  simp only [receiveHeader, hat]
  split
  · exact checkHeader_mergeAgents (s := s.setRx { s.rx with hbuf := hd, phase := .chk, cnt := 0 }) par
  · rfl

/-- An operation of RXP in a merged state does to RXP what it does in RXP's own. -/
theorem exec_rxOp_mergeAgents {j : Instr} (hj : isRxOp j = true) (par : u.par = s.par) (cfg : u.cfg = s.cfg) {t : State}
    (h : exec j s = .next t) : exec j (mergeAgents u s) = .next (mergeAgents u t) := by
  cases j with
  | rxHdr => cases h; exact congrArg _ (atPhase_mergeAgents _ (readTurn_mergeAgents u s ..))
  | rxChk => cases h; exact congrArg _ (atPhase_mergeAgents _ (checkHeader_mergeAgents par))
  | rxPay => cases h; exact congrArg _ (atPhase_mergeAgents _ (readTurn_mergeAgents u s ..))
  | rxFlt => cases h; exact congrArg _ (atPhase_mergeAgents _ (filterFrame_mergeAgents cfg))
  | rxDec => cases h; exact congrArg _ (atPhase_mergeAgents _ (decodePayload_mergeAgents par cfg))
  | rxRck => cases h; exact congrArg _ (atPhase_mergeAgents _ (recheckDest_mergeAgents cfg))
  | rxDlv => cases h; exact congrArg _ (atPhase_mergeAgents _ (deliverFragment_mergeAgents u s))
  | frame len src dst =>
    cases h
    rw [exec, execFrame, mergeAgents_par, par, receiveHeader_mergeAgents _ par]
  | frameBadMagic m v len src dst =>
    cases h
    exact congrArg _ (receiveHeader_mergeAgents (Hdr6.ofFields m v len src dst) par)
  | frameBadVersion v len src dst =>
    cases h
    rw [exec, execFrameBadVersion, mergeAgents_par, par, receiveHeader_mergeAgents _ par]
  | _ => cases hj

end

/-- Settles O54: both orders come to TXF as its operation leaves it, merged with RXP as its operation leaves it. -/
theorem transmitAndReceiveCommute : Obligations.TransmitAndReceiveCommute := by
  intro i j s t hi hj
  obtain ⟨sr, hr⟩ := exec_rxOp_next j s hj
  have keepsRx := exec_rxKeeps hj hr
  have htx := exec_txOp_mergeAgents s sr hi
  rw [mergeAgents_of_rxKeeps keepsRx] at htx
  cases h : exec i s with
  | next st =>
    have keepsTx := exec_txKeeps hi h
    have hrx := exec_rxOp_mergeAgents hj keepsTx.par keepsTx.cfg hr
    rw [mergeAgents_of_txKeeps keepsTx] at hrx
    simp [hr, htx, h, hrx, mapNext]
  | fault r => cases r
  | refused r => simp [hr, htx, h, mapNext]

end Sys2Proof.Machine
end

section
/-! SUPPORT. The ports (12_interfaces.md R50, R51, R64): a unit whose request has no answer stays as it is, and an
arrival is put behind what waits at its port. -/

namespace Sys2Proof.Machine

/-! ## Requests without an answer -/

/-- An enabled operation of a phase whose function leaves the state leaves it. -/
theorem next_atPhase_of_stays {s : State} {p : RxPhase} {f : State → State} (run : s.rx.state = .running)
    (phase : s.rx.phase = p) (h : f s = s) :
    Host.Outcome.next (atPhase p f s) = (.next s : Host.Outcome State Fault Refusal) :=
  congrArg _ ((atPhase_of f run phase).trans h)

/-- A read below its count waits for the answer of `RxByte` (R56, R64). -/
theorem readTurn_waiting {n : Nat} {next : RxPhase} {store : Byte → RxRegs → RxRegs} {short failed : RxCause}
    {s : State} (hlt : s.rx.cnt.toNat < n) (h : s.inp.rxAns = []) : readTurn n next store short failed s = s := by
  simp [readTurn, readNext, h, Nat.not_le.mpr hlt]

theorem deliverFragment_waiting {s : State} (h : s.inp.inbAns = []) : deliverFragment s = s := by
  simp [deliverFragment, h]

theorem startTurn_waiting {s : State} (h : s.inp.startAns = []) : startTurn s = s := by
  simp [startTurn, h]

/-- `TX.SEND` of the message that `FragStart` was called with goes on waiting for it (R160). -/
theorem exec_txSend_starting {s : State} {msg : Bytes} (idle : s.tx.state = .idle) (hm : s.tx.starting = some msg) :
    exec (.txSend [msg]) s = .next (startTurn s) := by
  simp [exec, execTxSend, idle, hm]

theorem exec_txPull_waiting {s : State} (h : s.inp.fragAns = []) : exec .txPull s = .next s := by
  simp [exec, execTxPull, h]

/-! ## A stopped receiver -/

theorem atBoundary_stopped {s : State} (stop : s.rx.state = .stopped) : s.atBoundary = false := by
  simp [State.atBoundary, State.rxAt, stop]

/-- A stopped RXP does nothing (R199): none of its phases is enabled, and it is at no frame boundary. -/
theorem exec_rxOp_stopped {s : State} {i : Instr} (stop : s.rx.state = .stopped) (hi : isRxOp i = true) :
    exec i s = .next s := by
  have at_no_phase (p : RxPhase) : exec (phaseInstr p) s = .next s :=
    exec_phaseInstr_of_not fun ⟨run, _⟩ => absurd (stop.symm.trans run) nofun
  have no_header (hd : Hdr6) : Host.Outcome.next (receiveHeader hd s) = (.next s : Host.Outcome State Fault Refusal) :=
    congrArg _ (receiveHeader_not_boundary hd (atBoundary_stopped stop))
  cases i with
  | rxHdr => exact at_no_phase .hdr
  | rxChk => exact at_no_phase .chk
  | rxPay => exact at_no_phase .pay
  | rxFlt => exact at_no_phase .flt
  | rxDec => exact at_no_phase .dec
  | rxRck => exact at_no_phase .rck
  | rxDlv => exact at_no_phase .dlv
  | frame | frameBadMagic | frameBadVersion => exact no_header _
  | _ => cases hi

/-- Settles O35: each waiting point by the lemma of its turn. -/
theorem waitingUnitsStayAsTheyAre : Obligations.WaitingUnitsStayAsTheyAre := by
  refine fun s => ⟨fun run phase hlt h => ?_, fun run phase hlt h => ?_, fun run phase h => ?_, fun msg idle hm h => ?_,
    fun _ _ h => exec_txPull_waiting h, fun f busy hw h => ?_, fun stop i => exec_rxOp_stopped stop⟩
  · exact next_atPhase_of_stays run phase (readTurn_waiting hlt h)
  · exact next_atPhase_of_stays run phase (readTurn_waiting hlt h)
  · exact next_atPhase_of_stays run phase (deliverFragment_waiting h)
  · rw [exec_txSend_starting idle hm, startTurn_waiting h]
  · rw [exec_txFrag_writing f busy hw, writeTurn_waiting h]

/-! ## Arrivals -/

/-- An entry that never selects an operation acts at its port on the state with the entry gone from the script. -/
theorem step_of_never_selects {s : State} {ev : Stimulus} {script : List Stimulus} (hs : s.inp.script = ev :: script)
    (hf : ∀ u, fetch ev u = none) : step s = .next (stimulate ev (s.setInp { s.inp with script := script })) := by
  rw [step_of_none hs (hf _), popScript_eq hs]

/-- Settles O47: an arrival selects no operation, so its step is what `stimulate` does at its port. -/
theorem arrivalsOnlyQueueAtTheirPort : Obligations.ArrivalsOnlyQueueAtTheirPort := by
  intro s ev script hs
  refine ⟨?_, ?_, ?_, ?_, ?_, ?_, ?_⟩ <;> (rintro _ rfl; exact step_of_never_selects hs fun _ => rfl)

end Sys2Proof.Machine
end

section
/-! SUPPORT. The whole-header turn runs what the six bytes decode to (20_memory.md R84, 30_encoding.md R113, R114). -/

namespace Sys2Proof.Machine

/-- Six bytes decode to the class of the header they are, with no byte left (R113). -/
theorem decode_hdr6_toList (p : Params) (hd : Hdr6) : decode p .hdr6 hd.toList = .ok (decodeHeader p hd, []) := rfl

/-- Settles O45: the whole-header turn fetches the header at the front of the stream, and the class it has is what its
bytes decode to. -/
theorem stepRunsTheDecodedHeader : Obligations.StepRunsTheDecodedHeader := by
  intro s hd more script i hb hs hbytes hdec
  obtain rfl : decodeHeader s.par hd = i := by
    rw [decode_hdr6_toList] at hdec
    cases hdec
    rfl
  have hfetch := fetchHeader_of_front (s := popScript s) hb hbytes
  rw [step_of_fetch hs (show fetch .rxpHeader _ = _ by rw [fetch, hfetch]), popScript_eq hs]
  rfl

end Sys2Proof.Machine
end

section
/-! SUPPORT. The two streams go forward only (20_memory.md R80, R84, R85): what each operation, each selection and each
arrival does to them. -/

namespace Sys2Proof.Machine

/-- Nothing is taken from the inbound stream from `s` to `t`. -/
structure InboundKept (s t : State) : Prop where
  rxAns : t.inp.rxAns = s.inp.rxAns
  inTaken : t.out.inTaken = s.out.inTaken

/-- What is taken from the inbound stream from `s` to `t` is some bytes off its front, which are counted, or the end or
failure that stops RXP (R56, R85). -/
def InboundTaken (s t : State) : Prop :=
  (∃ bs : Bytes, s.inp.rxAns = bs.map RxAns.byte ++ t.inp.rxAns ∧ t.out.inTaken = s.out.inTaken + bs.length) ∨
  ∃ a, (a = .eos ∨ a = .err) ∧ s.inp.rxAns = a :: t.inp.rxAns ∧ t.out.inTaken = s.out.inTaken ∧
    t.rx.state = .stopped

/-! ## The shared operations -/

theorem InboundKept.trans {s t u : State} (h : InboundKept s t) (k : InboundKept t u) : InboundKept s u :=
  ⟨k.rxAns.trans h.rxAns, k.inTaken.trans h.inTaken⟩

theorem InboundKept.taken {s t : State} (h : InboundKept s t) : InboundTaken s t :=
  .inl ⟨[], h.rxAns.symm, h.inTaken⟩

theorem setRx_inboundKept (r : RxRegs) (s : State) : InboundKept s (s.setRx r) := ⟨rfl, rfl⟩

/-- Taking bytes off the front and counting them, and then nothing more. -/
theorem InboundKept.taken_of_bytes {s t : State} {bs : Bytes} {more : List RxAns}
    (h : InboundKept (countTaken bs.length (s.setInp { s.inp with rxAns := more })) t)
    (hs : s.inp.rxAns = bs.map RxAns.byte ++ more) : InboundTaken s t :=
  .inl ⟨bs, by rw [h.rxAns]; exact hs, h.inTaken⟩

/-- The end or the failure of the stream, taken by the stop it causes (R56, R232). -/
theorem stopRx_inboundTaken {s : State} {a : RxAns} {more : List RxAns} (c : RxCause) (ha : a = .eos ∨ a = .err)
    (hs : s.inp.rxAns = a :: more) : InboundTaken s (stopRx c (s.setInp { s.inp with rxAns := more })) :=
  .inr ⟨a, ha, hs, rfl, rfl⟩

theorem atPhase_inboundTaken {p : RxPhase} {f : State → State} {s : State} (h : InboundTaken s (f s)) :
    InboundTaken s (atPhase p f s) := by
  unfold atPhase
  split
  · exact h
  · exact InboundKept.taken ⟨rfl, rfl⟩

theorem advanceRead_inboundKept (n : Nat) (next : RxPhase) (s : State) : InboundKept s (advanceRead n next s) := by
  obtain ⟨-, he⟩ | ⟨-, he⟩ := advanceRead_cases n next s <;> rw [he] <;> exact ⟨rfl, rfl⟩

/-- A turn of a read takes nothing, one byte, or the end or failure that stops RXP (R56). -/
theorem readTurn_inboundTaken (n : Nat) (next : RxPhase) (store : Byte → RxRegs → RxRegs) (short failed : RxCause)
    (s : State) : InboundTaken s (readTurn n next store short failed s) := by
  obtain ⟨-, he⟩ | ⟨-, -, he⟩ | ⟨b, more, -, hs, he⟩ | ⟨more, -, hs, he⟩ | ⟨more, -, hs, he⟩ :=
    readTurn_cases n next store short failed s <;> rw [he]
  · exact InboundKept.taken ⟨rfl, rfl⟩
  · exact InboundKept.taken ⟨rfl, rfl⟩
  · exact ((setRx_inboundKept _ _).trans (advanceRead_inboundKept ..)).taken_of_bytes (bs := [b]) hs
  · exact stopRx_inboundTaken short (.inl rfl) hs
  · exact stopRx_inboundTaken failed (.inr rfl) hs

/-! ## The operations of RXP that make no `RxByte` call -/

theorem checkHeader_inboundKept (s : State) : InboundKept s (checkHeader s) := by
  unfold checkHeader
  split <;> exact ⟨rfl, rfl⟩

theorem filterFrame_inboundKept (s : State) : InboundKept s (filterFrame s) := by
  unfold filterFrame
  split <;> exact ⟨rfl, rfl⟩

theorem decodePayload_inboundKept (s : State) : InboundKept s (decodePayload s) := by
  unfold decodePayload
  split <;> exact ⟨rfl, rfl⟩

theorem recheckDest_inboundKept (s : State) : InboundKept s (recheckDest s) := by
  unfold recheckDest
  split <;> exact ⟨rfl, rfl⟩

theorem deliverFragment_inboundKept (s : State) : InboundKept s (deliverFragment s) := by
  unfold deliverFragment
  split <;> exact ⟨rfl, rfl⟩

/-- A whole header was taken when it was selected; receiving it takes no more. -/
theorem receiveHeader_inboundKept (hd : Hdr6) (s : State) : InboundKept s (receiveHeader hd s) := by
  unfold receiveHeader
  split
  · exact (setRx_inboundKept _ s).trans (checkHeader_inboundKept _)
  · exact ⟨rfl, rfl⟩

/-! ## Operations, selections and arrivals -/

theorem exec_rxOp_inboundTaken {i : Instr} {s t : State} (hi : isRxOp i = true) (h : exec i s = .next t) :
    InboundTaken s t := by
  cases i with
  | rxHdr => cases h; exact atPhase_inboundTaken (readTurn_inboundTaken ..)
  | rxChk => cases h; exact atPhase_inboundTaken (checkHeader_inboundKept s).taken
  | rxPay => cases h; exact atPhase_inboundTaken (readTurn_inboundTaken ..)
  | rxFlt => cases h; exact atPhase_inboundTaken (filterFrame_inboundKept s).taken
  | rxDec => cases h; exact atPhase_inboundTaken (decodePayload_inboundKept s).taken
  | rxRck => cases h; exact atPhase_inboundTaken (recheckDest_inboundKept s).taken
  | rxDlv => cases h; exact atPhase_inboundTaken (deliverFragment_inboundKept s).taken
  | frame | frameBadMagic | frameBadVersion => cases h; exact (receiveHeader_inboundKept _ s).taken
  | _ => cases hi

/-- Every operation writes behind what is written and takes from the front of what is to be read (R80, R85). -/
theorem exec_streams {i : Instr} {s t : State} (h : exec i s = .next t) :
    s.out.outStream <+: t.out.outStream ∧ InboundTaken s t := by
  obtain hi | hi | ⟨c, rfl⟩ := instr_cases i
  · have keeps := exec_txKeeps hi h
    exact ⟨keeps.written, InboundKept.taken ⟨keeps.rxAns, keeps.inTaken⟩⟩
  · exact ⟨(exec_rxKeeps hi h).outStream ▸ List.prefix_rfl, exec_rxOp_inboundTaken hi h⟩
  · rw [exec_hdrCall] at h
    cases h
    exact ⟨List.prefix_rfl, InboundKept.taken ⟨rfl, rfl⟩⟩

/-- So does every operation with its selection, which takes bytes only for a whole header (R84). -/
theorem exec_selected_streams {ev : Stimulus} {u v t : State} {i : Instr} (hf : fetch ev u = some (i, v))
    (h : exec i v = .next t) : u.out.outStream <+: t.out.outStream ∧ InboundTaken u t := by
  obtain ⟨hwritten, htaken⟩ := exec_streams h
  obtain ⟨-, -, rfl, -⟩ | ⟨-, -, rfl, -⟩ | ⟨-, -, -, _, _, -, -, rfl⟩ | ⟨-, -, rfl, -⟩ |
    ⟨-, -, hd, _, hu, rfl, rfl⟩ | ⟨_, -, -, rfl⟩ := fetch_cases hf
  iterate 4 exact ⟨hwritten, htaken⟩
  · rw [exec_decodeHeader hd] at h
    · cases h
      exact ⟨hwritten, (receiveHeader_inboundKept hd _).taken_of_bytes (bs := hd.toList) hu⟩
    · rfl
  · exact ⟨hwritten, htaken⟩

/-- Of what happens at the ports, only reset and an arrival on the inbound stream change a stream (R50, R61). -/
theorem stimulate_streams {ev : Stimulus} (s : State) (hev : ev ≠ .rst) :
    (stimulate ev s).out = s.out ∧ ((stimulate ev s).inp.rxAns = s.inp.rxAns ∨
      ∃ a, ev = .rx a ∧ (stimulate ev s).inp.rxAns = s.inp.rxAns ++ [a]) := by
  cases ev with
  | rst => exact absurd rfl hev
  | rx a => exact ⟨rfl, .inr ⟨a, rfl, rfl⟩⟩
  | _ => exact ⟨rfl, .inl rfl⟩

/-- Settles O53: an entry of the script runs an operation it selects, which moves both streams forward, or acts at a
port, where only an arrival on the inbound stream touches one. -/
theorem streamsAreNeverRewound : Obligations.StreamsAreNeverRewound := by
  intro s t ev script hs hev h
  obtain ⟨hs', -⟩ | ⟨_, _, i, u, -, hf, he⟩ | ⟨_, _, hs', -, he⟩ := step_cases s
  · cases hs.symm.trans hs'
  · obtain ⟨hwritten, htaken⟩ := exec_selected_streams hf (he.symm.trans h)
    exact ⟨hwritten, or_assoc.mp (.inl htaken)⟩
  · cases hs.symm.trans hs'
    cases Host.Outcome.next.inj (he.symm.trans h)
    obtain ⟨hout, hrx | ⟨a, rfl, hrx⟩⟩ := stimulate_streams (popScript s) hev <;> rw [hout]
    · exact ⟨List.prefix_rfl, .inl ⟨[], hrx.symm, rfl⟩⟩
    · exact ⟨List.prefix_rfl, .inr (.inr ⟨a, rfl, hrx, rfl⟩)⟩

end Sys2Proof.Machine
end

section
/-! SUPPORT. The classes of a header (30_encoding.md R113, R115, 40_header_codec.md R141): what the header word says of the
bytes, and what each class decodes to and parses to. -/

namespace Sys2Proof

/-! ## The header word -/

/-- Two headers with one word are one header (R7, R111). -/
theorem Hdr6.word_injective : Function.Injective Hdr6.word := Function.LeftInverse.injective Hdr6.ofWord_word

/-- The two bytes of a length side by side are the length (R82, R112). -/
theorem lenJoin_eq_append (lo hi : Byte) : lenJoin lo hi = hi ++ lo := by
  have hsplit : lenHigh (lenJoin lo hi) ++ lenLow (lenJoin lo hi) = lenJoin lo hi :=
    BitVec.extractLsb'_append_extractLsb' (w := 8) (len := 8)
  rw [← hsplit, lenHigh_join, lenLow_join]

/-- `H[31:16]` is the length field: byte 3 above byte 2 (R82, R111). -/
theorem Hdr6.word_extract_length (h : Hdr6) : h.word.extractLsb' 16 16 = h.length := by
  have hbytes := h.ofWord_word
  calc h.word.extractLsb' 16 16
    _ = h.word.extractLsb' 24 8 ++ h.word.extractLsb' 16 8 :=
      (BitVec.extractLsb'_append_extractLsb'_eq_extractLsb' (len₁ := 8) (len₂ := 8) rfl).symm
    _ = h.b3 ++ h.b2 := congrArg₂ (· ++ ·) (congrArg Hdr6.b3 hbytes) (congrArg Hdr6.b2 hbytes)
    _ = h.length := (lenJoin_eq_append h.b2 h.b3).symm

/-- Settles O1: the bytes are read off the layout, the one-byte fields off the bytes of the word. -/
theorem headerFieldPositions : Obligations.HeaderFieldPositions := by
  intro m v len src dst
  have hbytes := (Hdr6.ofFields m v len src dst).ofWord_word
  have hlen := Hdr6.ofFields_length m v len src dst
  exact ⟨rfl, congrArg Hdr6.b0 hbytes, congrArg Hdr6.b1 hbytes, (Hdr6.word_extract_length _).trans hlen,
    congrArg Hdr6.b4 hbytes, congrArg Hdr6.b5 hbytes, hlen⟩

/-- The mask keeps the first two bytes of a header (R113). -/
theorem Hdr6.word_and_headerMask (h : Hdr6) : h.word &&& headerMask = (Hdr6.mk h.b0 h.b1 0 0 0 0).word := by
  have hmask : ∀ i < 48, headerMask.getLsbD i = decide (i < 16) := by decide
  apply BitVec.eq_of_getLsbD_eq
  intro i hi
  rw [BitVec.getLsbD_and, hmask i hi]
  by_cases h16 : i < 16
  · simp [Hdr6.word, h16, show i < 24 by omega, show i < 32 by omega, show i < 40 by omega]
  · have hb0 : h.b0.getLsbD i = false := h.b0.getLsbD_of_ge i (by omega)
    have hb1 : h.b1.getLsbD (i - 8) = false := h.b1.getLsbD_of_ge (i - 8) (by omega)
    simp [Hdr6.word, h16, hb0, hb1]

theorem headerMatch_eq_word (p : Params) : headerMatch p = (Hdr6.mk p.magic p.version 0 0 0 0).word := by
  simp [headerMatch, Hdr6.word]

/-- The masked word matches when the first two bytes are the constants (R113). -/
theorem word_and_headerMask_eq_headerMatch_iff {p : Params} {h : Hdr6} :
    h.word &&& headerMask = headerMatch p ↔ h.b0 = p.magic ∧ h.b1 = p.version := by
  rw [Hdr6.word_and_headerMask, headerMatch_eq_word, Hdr6.word_injective.eq_iff]
  simp

/-! ## The three classes -/

/-- The three classes of a header, magic tested first (R113, R115). -/
theorem header_classes (p : Params) (h : Hdr6) :
    h.b0 ≠ p.magic ∨ (h.b0 = p.magic ∧ h.b1 ≠ p.version) ∨ (h.b0 = p.magic ∧ h.b1 = p.version) := by
  tauto

section
variable {p : Params} {h : Hdr6}

theorem decodeHeader_badMagic (hm : h.b0 ≠ p.magic) :
    decodeHeader p h = .frameBadMagic h.b0 h.b1 h.length h.b4 h.b5 := if_pos hm

theorem decodeHeader_badVersion (hm : h.b0 = p.magic) (hv : h.b1 ≠ p.version) :
    decodeHeader p h = .frameBadVersion h.b1 h.length h.b4 h.b5 := by
  simp [decodeHeader, hm, hv]

theorem decodeHeader_frame (hm : h.b0 = p.magic) (hv : h.b1 = p.version) :
    decodeHeader p h = .frame h.length h.b4 h.b5 := by
  simp [decodeHeader, hm, hv]

theorem parse_badMagic (hm : h.b0 ≠ p.magic) : parse p h = .err .badMagic := if_pos hm

theorem parse_badVersion (hm : h.b0 = p.magic) (hv : h.b1 ≠ p.version) : parse p h = .err .badVersion := by
  simp [parse, hm, hv]

theorem parse_legal (hm : h.b0 = p.magic) (hv : h.b1 = p.version) :
    parse p h = .ok { magic := h.b0, version := h.b1, length := h.length, sourceAddr := h.b4, destAddr := h.b5 } := by
  simp [parse, hm, hv]

end

/-- Settles O4: the mask keeps the two bytes that the classes are told apart by. -/
theorem legalHeaderIffMaskedWordMatches : Obligations.LegalHeaderIffMaskedWordMatches := by
  refine fun p h => ⟨word_and_headerMask_eq_headerMatch_iff, ?_⟩
  rw [word_and_headerMask_eq_headerMatch_iff]
  obtain hm | ⟨hm, hv⟩ | ⟨hm, hv⟩ := header_classes p h
  · simp [decodeHeader_badMagic hm, hm]
  · simp [decodeHeader_badVersion hm hv, hv]
  · simp [decodeHeader_frame hm hv, hm, hv]

/-- Settles O5: in each of the three classes, what the header decodes to and what `parse` answers. -/
theorem illegalHeaderClassIsParseError : Obligations.IllegalHeaderClassIsParseError := by
  intro p h
  obtain hm | ⟨hm, hv⟩ | ⟨hm, hv⟩ := header_classes p h
  · simp [decodeHeader_badMagic hm, parse_badMagic hm, hm]
  · simp [decodeHeader_badVersion hm hv, parse_badVersion hm hv, hm, hv]
  · simp [decodeHeader_frame hm hv, parse_legal hm hv, hm, hv]

/-- Settles O8: with the two constants given, each word is evaluated. -/
theorem sampleHeaderWordsDecode : Obligations.SampleHeaderWordsDecode := by
  intro p hm hv
  simp only [decodeHeader, hm, hv]
  decide

end Sys2Proof
end

section
/-! SUPPORT. Encoding and decoding undo each other: on the wire both ways, for an operation up to the operands that its
number does not carry (30_encoding.md R113, R115, R117, R118). -/

namespace Sys2Proof

/-! ## Headers -/

section
variable {p : Params} {i : Instr} {hd : Hdr6}

theorem encode_of_encodeHeader (h : encodeHeader p i = some hd) : encode p i = hd.toList := by
  simp [encode, h]

/-- The wire rows are the instructions that have a header. -/
theorem opNumber_of_encodeHeader (h : encodeHeader p i = some hd) : opNumber i = none := by
  cases i with
  | frame | frameBadMagic | frameBadVersion => rfl
  | _ => cases h

theorem format_of_encodeHeader (h : encodeHeader p i = some hd) : i.format = .hdr6 := by
  simp [Instr.format, opNumber_of_encodeHeader h]

theorem encodeHeader_decodeHeader (p : Params) (hd : Hdr6) : encodeHeader p (decodeHeader p hd) = some hd := by
  refine Eq.trans ?_ (congrArg some hd.ofFields_self)
  obtain hm | ⟨hm, hv⟩ | ⟨hm, hv⟩ := header_classes p hd
  · rw [decodeHeader_badMagic hm]; rfl
  · rw [decodeHeader_badVersion hm hv, hm]; rfl
  · rw [decodeHeader_frame hm hv, hm, hv]; rfl

theorem wellFormed_decodeHeader (p : Params) (hd : Hdr6) : WellFormed p (decodeHeader p hd) = true := by
  obtain hm | ⟨hm, hv⟩ | ⟨hm, hv⟩ := header_classes p hd
  · rw [decodeHeader_badMagic hm]; exact decide_eq_true hm
  · rw [decodeHeader_badVersion hm hv]; exact decide_eq_true hv
  · rw [decodeHeader_frame hm hv]; rfl

/-- A well-formed wire row is the class of its header: an illegal one is illegal in the way its row says (R115). -/
theorem decodeHeader_of_encodeHeader (hwf : WellFormed p i = true) (h : encodeHeader p i = some hd) :
    decodeHeader p hd = i := by
  cases i with
  | frame len src dst =>
    cases h
    rw [decodeHeader_frame rfl rfl, serialize, Hdr6.ofFields_length]; rfl
  | frameBadMagic m v len src dst =>
    cases h
    have hm : m ≠ p.magic := of_decide_eq_true hwf
    rw [decodeHeader_badMagic hm, Hdr6.ofFields_length]; rfl
  | frameBadVersion v len src dst =>
    cases h
    have hv : v ≠ p.version := of_decide_eq_true hwf
    rw [decodeHeader_badVersion rfl hv, Hdr6.ofFields_length]; rfl
  | _ => cases h

theorem decode_hdr6_toList_append (p : Params) (hd : Hdr6) (rest : Bytes) :
    decode p .hdr6 (hd.toList ++ rest) = .ok (decodeHeader p hd, rest) := rfl

/-- Only six bytes or more decode as a header, and they decode to its class (R110, R113). -/
theorem decode_hdr6_ok {bytes rest : Bytes} (h : decode p .hdr6 bytes = .ok (i, rest)) :
    ∃ hd : Hdr6, bytes = hd.toList ++ rest ∧ i = decodeHeader p hd := by
  unfold decode at h
  split at h
  · cases h
  · nomatch ‹Format.hdr6 = .op›
  · cases h
    exact ⟨⟨_, _, _, _, _, _⟩, rfl, rfl⟩
  · cases h

end

/-- Settles O7: bytes that decode are a header's, and a class has the header it is the class of. -/
theorem encodeInvertsHeaderDecode : Obligations.EncodeInvertsHeaderDecode := by
  intro p bytes rest i h
  obtain ⟨hd, rfl, rfl⟩ := decode_hdr6_ok h
  have henc := encodeHeader_decodeHeader p hd
  exact ⟨wellFormed_decodeHeader p hd, by rw [encode_of_encodeHeader henc], format_of_encodeHeader henc⟩

/-! ## Operation numbers -/

/-- The number of an operation names it, up to its operands (R117, R118). -/
theorem ofOpNumber_of_opNumber {i : Instr} {n : Nat} (h : opNumber i = some n) : ofOpNumber n = some i.bare := by
  cases i with
  | frame | frameBadMagic | frameBadVersion => cases h
  | _ => cases h; rfl

theorem opNumber_lt {i : Instr} {n : Nat} (h : opNumber i = some n) : n < 14 := by
  cases i with
  | frame | frameBadMagic | frameBadVersion => cases h
  | _ => cases h; decide

theorem opNumber_bare (i : Instr) : opNumber i.bare = opNumber i := by
  cases i <;> rfl

/-- A row's word is its number or its header, and a header's row has no operand that its word does not carry. -/
theorem opNumber_or_encodeHeader (p : Params) (i : Instr) :
    (∃ n, opNumber i = some n ∧ encode p i = [BitVec.ofNat 8 n]) ∨
    (∃ hd, encodeHeader p i = some hd ∧ i.bare = i) := by
  cases i with
  | frame | frameBadMagic | frameBadVersion => exact .inr ⟨_, rfl, rfl⟩
  | _ => exact .inl ⟨_, rfl, rfl⟩

theorem decode_op_label (p : Params) {n : Nat} {i : Instr} (rest : Bytes) (hn : n < 256) (h : ofOpNumber n = some i) :
    decode p .op (BitVec.ofNat 8 n :: rest) = .ok (i, rest) := by
  have hbyte : (BitVec.ofNat 8 n).toNat = n := Nat.mod_eq_of_lt hn
  simp only [decode, hbyte, h]

/-- Decoding an encoded instruction gives the instruction as far as its word tells it. -/
theorem decode_encode {p : Params} {i : Instr} (rest : Bytes) (hwf : WellFormed p i = true) :
    decode p i.format (encode p i ++ rest) = .ok (i.bare, rest) := by
  obtain ⟨n, hn, henc⟩ | ⟨hd, hhd, hbare⟩ := opNumber_or_encodeHeader p i
  · have hfmt : i.format = .op := by simp [Instr.format, hn]
    rw [hfmt, henc]
    exact decode_op_label p rest ((opNumber_lt hn).trans (by decide)) (ofOpNumber_of_opNumber hn)
  · rw [format_of_encodeHeader hhd, encode_of_encodeHeader hhd, decode_hdr6_toList_append,
      decodeHeader_of_encodeHeader hwf hhd, hbare]

/-- Settles O6: a number names its operation up to operands, a header is the row it is the class of. -/
theorem decodeInvertsEncode : Obligations.DecodeInvertsEncode := by
  refine ⟨fun p i rest hwf => ?_, fun i => ⟨opNumber_bare i, ?_⟩, fun i j n hi hj => ?_⟩
  · rw [decode_encode rest hwf]
    cases i <;> rfl
  · rw [Instr.format, opNumber_bare, Instr.format]
  · exact Option.some.inj ((ofOpNumber_of_opNumber hi).symm.trans (ofOpNumber_of_opNumber hj))

end Sys2Proof
end

section
/-! SUPPORT. A whole header at a frame boundary (42_inbound_parser.md R192): kept, then checked. -/

namespace Sys2Proof.Machine

theorem checkHeader_ok {s : State} {h : Header} (hp : parse s.par s.rx.hbuf = .ok h) :
    checkHeader s =
      s.setRx { s.rx with len := h.length, src := h.sourceAddr, dst := h.destAddr, phase := .pay, cnt := 0 } := by
  simp [checkHeader, hp]

theorem checkHeader_err {s : State} {e : ParseError} (hp : parse s.par s.rx.hbuf = .err e) :
    checkHeader s = stopRx (causeOfParse e) s := by
  simp [checkHeader, hp]

theorem receiveHeader_ok {s : State} {hd : Hdr6} {h : Header} (hb : s.atBoundary = true)
    (hp : parse s.par hd = .ok h) :
    receiveHeader hd s = s.setRx { s.rx with
      hbuf := hd, len := h.length, src := h.sourceAddr, dst := h.destAddr, phase := .pay, cnt := 0 } := by
  rw [receiveHeader, if_pos hb, checkHeader_ok (h := h) hp]
  rfl

/-- The stop leaves the count where the boundary has it, at 0 (R232). -/
theorem receiveHeader_err {s : State} {hd : Hdr6} {e : ParseError} (hb : s.atBoundary = true)
    (hp : parse s.par hd = .err e) :
    receiveHeader hd s = s.setRx { s.rx with
      hbuf := hd, phase := .chk, state := .stopped, cause := causeOfParse e } := by
  obtain ⟨-, -, cnt⟩ := atBoundary_iff.mp hb
  rw [receiveHeader, if_pos hb, checkHeader_err (e := e) hp, ← cnt]
  rfl

/-- Settles O33: the three rows are the three answers of `parse` to the header that comes in. -/
theorem wireHeadersAreCheckedWhole : Obligations.WireHeadersAreCheckedWhole := by
  refine fun s hb => ⟨fun len src dst => ?_, fun m v len src dst hwf => ?_, fun v len src dst hwf => ?_⟩
  · have hp := parse_legal (p := s.par) (h := serialize s.par len src dst) rfl rfl
    rw [show (serialize s.par len src dst).length = len from Hdr6.ofFields_length ..] at hp
    exact congrArg Host.Outcome.next (receiveHeader_ok hb hp)
  · have hm : m ≠ s.par.magic := of_decide_eq_true hwf
    exact congrArg Host.Outcome.next (receiveHeader_err hb (parse_badMagic hm))
  · have hv : v ≠ s.par.version := of_decide_eq_true hwf
    exact congrArg Host.Outcome.next (receiveHeader_err hb (parse_badVersion rfl hv))

end Sys2Proof.Machine
end

section
/-! SUPPORT. The instruction that a table row's word places is the one the next step runs (30_encoding.md R117, R118). -/

namespace Sys2Proof.Machine

/-- The entry just put at the head of the script is the one a step takes. -/
theorem step_pushScript {s t : State} {ev : Stimulus} {i : Instr} (hf : fetch ev s = some (i, t)) :
    step (pushScript ev s) = exec i t :=
  step_of_fetch (s := pushScript ev s) rfl hf

/-- A one-byte word places the operation it numbers (R117, R118). -/
theorem withFetchWord_label {n : Nat} {i : Instr} (s : State) (hn : n < 256) (h : ofOpNumber n = some i) :
    s.withFetchWord 8 n = placeOp i s := by
  have hword : decodeTableWord 8 n = some i := by
    simp [decodeTableWord, hn, decode_op_label Config.params [] hn h, Except.toOption]
  simp [State.withFetchWord, hword]

/-- The word of six bytes places them (R7, R111). -/
theorem withFetchWord_header (s : State) (hd : Hdr6) : s.withFetchWord 48 hd.word.toNat = placeHeader hd s := by
  simp [State.withFetchWord, Hdr6.ofWord_word]

/-- The number of a phase's operation is the phase's code plus 7 (R117). -/
theorem ofOpNumber_phase (ph : RxPhase) : ofOpNumber (7 + ph.code.toNat) = some (phaseInstr ph) := by
  cases ph <;> rfl

/-- An operation of RXP is placed by its phase, with at most an answer put at a port. -/
theorem placeOp_phaseInstr (ph : RxPhase) (s : State) :
    ∃ n : Inputs, placeOp (phaseInstr ph) s = placeRx ph (s.setInp n) ∧ n.script = s.inp.script := by
  cases ph <;> exact ⟨_, rfl, rfl⟩

theorem step_placeRx (ph : RxPhase) (s : State) :
    step (placeRx ph s) =
      exec (phaseInstr ph) (s.setRx { s.rx with state := .running, cause := .none, phase := ph, cnt := 0 }) :=
  step_pushScript rfl

/-- The header placed is the one the whole-header turn takes (R84). -/
theorem step_placeHeader (hd : Hdr6) (s : State) :
    step (placeHeader hd s) = exec (decodeHeader s.par hd)
      ((s.setRx { s.rx with state := .running, cause := .none, phase := .hdr, cnt := 0 }).setOut
        { s.out with inTaken := s.out.inTaken + 6 }) := by
  refine step_pushScript ?_
  rw [fetch, fetchHeader_of_front rfl rfl]
  rfl

/-- Settles O44: each number and each header is placed, and its turn fetches it. -/
theorem stepRunsThePlacedInstruction : Obligations.StepRunsThePlacedInstruction := by
  refine fun s => ⟨⟨?_, ?_⟩, ?_, ?_, ?_, ?_, ?_, fun ph => ?_, fun hd => ⟨_, decode_hdr6_toList s.par hd, ?_⟩⟩
  iterate 7
    rw [withFetchWord_label s (by decide) rfl]
    exact step_pushScript rfl
  · have hcode : 7 + ph.code.toNat < 256 := by have := ph.code.isLt; omega
    obtain ⟨n, hplace, hscript⟩ := placeOp_phaseInstr ph s
    rw [withFetchWord_label s hcode (ofOpNumber_phase ph), hplace, step_placeRx]
    exact ⟨_, rfl, rfl, rfl, rfl, rfl, rfl, hscript⟩
  · rw [withFetchWord_header, step_placeHeader]

end Sys2Proof.Machine
end

section
/-! SUPPORT. The codec of the frame header (40_header_codec.md R140 to R143): what `parse` accepts, that it and `serialize`
undo each other, and what a call on HDR returns. -/

namespace Sys2Proof

/-- `parse` succeeds on the legal headers alone, and answers their fields (R141, R143). -/
theorem parse_eq_ok_iff {p : Params} {b : Hdr6} {h : Header} :
    parse p b = .ok h ↔ (b.b0 = p.magic ∧ b.b1 = p.version) ∧
      { magic := b.b0, version := b.b1, length := b.length, sourceAddr := b.b4, destAddr := b.b5 } = h := by
  obtain hm | ⟨hm, hv⟩ | ⟨hm, hv⟩ := header_classes p b
  · simp [parse_badMagic hm, hm]
  · simp [parse_badVersion hm hv, hv]
  · simp [parse_legal hm hv, hm, hv]

@[simp] theorem serialize_length (p : Params) (len : Len) (src dst : Byte) : (serialize p len src dst).length = len :=
  Hdr6.ofFields_length ..

/-- Settles O2: a serialized header is legal and holds its fields; a legal header is the layout of its fields. -/
theorem parseInvertsSerialize : Obligations.ParseInvertsSerialize := by
  refine ⟨fun p len src dst => parse_eq_ok_iff.mpr ⟨⟨rfl, rfl⟩, ?_⟩, fun p b h hp => ?_⟩
  · rw [serialize_length]; rfl
  · obtain ⟨⟨hm, hv⟩, rfl⟩ := parse_eq_ok_iff.mp hp
    rw [serialize, ← hm, ← hv, Hdr6.ofFields_self]

/-- A byte with one bit inverted is another byte. -/
theorem xor_bit_ne_self (x : Byte) {k : Nat} (hk : k < 8) : x ^^^ (1#8 <<< k) ≠ x := by
  intro h
  have hbit : (x ^^^ (1#8 <<< k)).getLsbD k = x.getLsbD k := congrArg (·.getLsbD k) h
  simp [hk] at hbit

/-- Settles O3: the inverted byte is not the constant it was, and the legal headers are those that `parse` accepts. -/
theorem flippedConstantBitIsRejected : Obligations.FlippedConstantBitIsRejected := by
  refine ⟨fun p len src dst k hk => ⟨?_, ?_⟩, fun p b => ?_⟩
  · exact parse_badMagic (xor_bit_ne_self p.magic hk)
  · exact parse_badVersion rfl (xor_bit_ne_self p.version hk)
  · simp [parse_eq_ok_iff]

end Sys2Proof

namespace Sys2Proof.Machine

/-- Settles O9: HDR returns what `serialize` or `parse` gives; the class of the header says what `parse` gives. -/
theorem hdrCallsReturnTheirResult : Obligations.HdrCallsReturnTheirResult := by
  refine fun s => ⟨fun len src dst => ⟨serialize s.par len src dst, rfl, rfl⟩, fun b => ⟨parse s.par b, rfl, ?_⟩⟩
  exact ⟨parse_badMagic, parse_badVersion, parse_legal⟩

end Sys2Proof.Machine
end

section
/-! SUPPORT. TXF, one operation at a time (41_outbound_framer.md R160 to R165): the state each enabled operation
answers, once for each answer at its port. -/

namespace Sys2Proof.Machine

/-! ## `TX.SEND` -/

theorem startTurn_answered {s : State} {session : Session} {more : List Session}
    (h : s.inp.startAns = session :: more) :
    startTurn s = (s.setInp { s.inp with startAns := more }).setTx
      { s.tx with prod := session, state := .busy, pend := .none, starting := none } := by
  simp [startTurn, h]

theorem startTurn_busy {s : State} {session : Session} {more : List Session}
    (h : s.inp.startAns = session :: more) : (startTurn s).tx.state = .busy := by
  rw [startTurn_answered h]
  rfl

/-- The answer to `FragStart` shows at no port (R160). -/
theorem startTurn_out (s : State) : (startTurn s).out = s.out := by
  obtain ⟨-, he⟩ | ⟨session, more, -, he⟩ := startTurn_cases s <;> rw [he]
  rfl

/-- An accepted request begins `FragStart` and takes its answer if there is one (R160). -/
theorem exec_txSend_accepted {s : State} (bufs : List Bytes) (idle : s.tx.state = .idle) (hm : s.tx.starting = none) :
    exec (.txSend bufs) s = .next (startTurn (beginStart bufs.flatten s)) := by
  simp [exec, execTxSend, idle, hm]

/-- A request that TXF does not accept now is held (R170). -/
theorem exec_txSend_held {s : State} {bufs : List Bytes}
    (h : s.tx.state = .busy ∨ s.tx.state = .idle ∧ ∃ msg, s.tx.starting = some msg ∧ bufs.flatten ≠ msg) :
    exec (.txSend bufs) s = .next (holdRequest bufs s) := by
  obtain busy | ⟨idle, msg, hm, hne⟩ := h
  · simp [exec, execTxSend, busy]
  · simp [exec, execTxSend, idle, hm, hne]

/-- In `IDLE` TXF's turn serves the request held longest (R170). -/
theorem step_servesRequest {s : State} {bufs : List Bytes} {held : List (List Bytes)} {script : List Stimulus}
    (idle : s.tx.state = .idle) (hm : s.tx.starting = none) (hr : s.inp.sendReqs = bufs :: held)
    (hs : s.inp.script = .tx :: script) :
    step s = exec (.txSend bufs) (s.setInp { s.inp with script := script, sendReqs := held }) := by
  refine step_of_fetch hs ?_
  simp [fetch, fetchTx, popScript, idle, hm, hr, hs]

/-- Settles O11: the request begins `FragStart`, and its turn takes the answer or waits. -/
theorem txSendStartsProducer : Obligations.TxSendStartsProducer := by
  refine ⟨fun s bufs idle hm => ?_, fun s msg idle hm => ⟨fun h => ?_, fun session more h => ?_⟩⟩
  · set u := beginStart bufs.flatten s with hu
    have keeps : TxKeeps s (startTurn u) := (beginStart_keeps _ s).trans (startTurn_keeps u)
    rw [exec_txSend_accepted bufs idle hm, ← hu]
    refine ⟨fun session more h => ?_, fun h => ?_⟩
    · rw [startTurn_answered (s := u) h] at keeps ⊢
      exact ⟨_, rfl, by simp [hu, beginStart, hm], rfl, rfl, fetchTx_busy rfl, keeps⟩
    · rw [startTurn_waiting (s := u) h] at keeps ⊢
      exact ⟨u, rfl, rfl, rfl, rfl, fetchTx_starting idle rfl, keeps⟩
  · rw [exec_txSend_starting idle hm, startTurn_waiting h]
  · rw [exec_txSend_starting idle hm, startTurn_answered h]

/-- Settles O12: a request that is not accepted is held, and TXF's turn in `IDLE` serves the first. -/
theorem sendRequestsAreHeldInOrder : Obligations.SendRequestsAreHeldInOrder :=
  ⟨fun _ _ => exec_txSend_held, fun _ _ _ _ => step_servesRequest⟩

/-- Settles O13: an accepted request is used through its concatenation alone, where empty buffers leave no byte. -/
theorem vectoredSendIsItsConcatenation : Obligations.VectoredSendIsItsConcatenation := by
  intro s bufs idle hm
  simp only [exec_txSend_accepted _ idle hm]
  exact ⟨by simp, by rw [List.flatten_filter_not_isEmpty]⟩

/-! ## `TX.PULL` -/

/-- The registers of TXF once the producer's answer is pending (R161). -/
def TxRegs.withAnswer (t : TxRegs) : FragAns → TxRegs
  | .packet f => { t with frag := f, pend := .packet }
  | .complete tag => { t with pend := .complete tag }
  | .error e => { t with pend := .error e }

/-- `s` with the producer's answer `a` taken and pending (R161). -/
def afterPull (a : FragAns) (more : List FragAns) (s : State) : State :=
  ((s.setInp { s.inp with fragAns := more }).setOut
    { s.out with fragNexts := s.out.fragNexts ++ [s.tx.prod] }).setTx (s.tx.withAnswer a)

/-- `TX.PULL` takes an answer within the producer's contract (R161, R168). -/
theorem exec_txPull_answered {s : State} {a : FragAns} {more : List FragAns} (busy : s.tx.state = .busy)
    (hp : s.tx.pend = .none) (ha : s.inp.fragAns = a :: more) (hfit : ∀ f, a = .packet f → f.length ≤ s.par.mtu) :
    exec .txPull s = .next (afterPull a more s) := by
  cases a with
  | packet f =>
    have hle : f.length ≤ s.par.mtu := hfit f rfl
    simp [exec, execTxPull, busy, hp, ha, Nat.not_lt.mpr hle, takeFragAns, afterPull, TxRegs.withAnswer]
  | complete | error => simp [exec, execTxPull, busy, hp, ha, takeFragAns, afterPull, TxRegs.withAnswer]

/-- Settles O14: the answer becomes the pending outcome, and that selects the next operation. -/
theorem txPullTakesTheOutcome : Obligations.TxPullTakesTheOutcome := by
  intro s a more busy hp ha
  refine ⟨fun hfit => ?_, fun f hf => exec_txPull_refused busy hp (hf ▸ ha)⟩
  have he := exec_txPull_answered busy hp ha hfit
  refine ⟨_, he, rfl, rfl, ?_, ?_, exec_txKeeps rfl he⟩
  · cases a <;> rfl
  · cases a <;> exact fetchTx_busy busy

/-! ## `TX.FRAG` -/

/-- The header of the frame that carries a fragment to the peer (R162, R166). -/
def frameHeader (f : Bytes) (s : State) : Hdr6 :=
  serialize s.par (BitVec.ofNat 16 (busPacket f s).length) s.cfg.localAddr s.cfg.peerAddr

/-- The header says the size of the packet: a packet that fits is not truncated (R173). -/
theorem frameHeader_length {f : Bytes} {s : State} (h : fits f s) :
    (frameHeader f s).length.toNat = (busPacket f s).length := by
  obtain ⟨-, hpkt⟩ := h
  rw [frameHeader, serialize_length, ofNat16_toNat hpkt]

/-- `s` with the write of the frame of `f` over, the first `n` bytes of it in the outbound stream and `tx_state` at
`st`. -/
def frameOver (f : Bytes) (s : State) (n : Nat) (st : TxState) (more : List WriteAns) : State :=
  ((s.setInp { s.inp with writeAns := more }).setOut
    { s.out with outStream := s.out.outStream ++ (frameFor f s).take n
                 writes := s.out.writes ++ [frameFor f s] }).setTx
    { s.tx with state := st, pkt := busPacket f s, hdr := frameHeader f s, pend := .none, sent := 0 }

/-- `TX.FRAG` on a channel that takes the write (R162). -/
theorem exec_txFrag_ok {s : State} {f : Bytes} {more : List WriteAns} (busy : s.tx.state = .busy)
    (hp : s.tx.pend = .packet) (hfit : fits f s) (h : s.inp.writeAns = .ok :: more) :
    exec (.txFrag f) s = .next (frameOver f s (frameFor f s).length .busy more) := by
  rw [← busy, exec_txFrag_packet f busy hp, frameFragment_fits hfit, writeTurn_ok (s := beginWrite _ s) h,
    slice_of_sent_zero rfl]
  rfl

/-- How much of the frame of `f` a write that fails with the draw `k` leaves in the stream, never all of it (R55, U6). -/
def failedPrefix (f : Bytes) (s : State) (k : Nat) : Nat := min k ((frameFor f s).length - 1)

theorem failedPrefix_lt (f : Bytes) (s : State) (k : Nat) : failedPrefix f s k < (frameFor f s).length := by
  have hpos : 0 < (frameFor f s).length := by simp [frameFor]
  unfold failedPrefix
  omega

theorem failedPrefix_eq {f : Bytes} {s : State} {k : Nat} (h : k < (frameFor f s).length) : failedPrefix f s k = k := by
  unfold failedPrefix
  omega

/-- `TX.FRAG` on a channel that fails the write (R165). -/
theorem exec_txFrag_fail {s : State} {f : Bytes} {k : Nat} {more : List WriteAns} (busy : s.tx.state = .busy)
    (hp : s.tx.pend = .packet) (hfit : fits f s) (h : s.inp.writeAns = .fail k :: more) :
    exec (.txFrag f) s = .next (respond .txError (frameOver f s (failedPrefix f s k) .idle more)) := by
  have hlen : prefixLen (beginWrite (busPacket f s) s).tx k = failedPrefix f s k := Nat.zero_max _
  rw [exec_txFrag_packet f busy hp, frameFragment_fits hfit, writeTurn_fail (s := beginWrite _ s) h,
    slice_of_sent_zero rfl, hlen]
  rfl

/-- Settles O15: the registers, the one write and the stream after the channel's `Ok` and after its `Fail`. -/
theorem txFragWritesOneFrame : Obligations.TxFragWritesOneFrame := by
  refine fun s f busy hp hfit => ⟨fun more h => ?_, fun k more h => ?_⟩
  · have he := exec_txFrag_ok busy hp hfit h
    refine ⟨_, he, rfl, rfl, ?_, frameHeader_length hfit, rfl, fetchTx_busy rfl, rfl, rfl, rfl, exec_txKeeps rfl he⟩
    rw [frameOver, List.take_length]
    rfl
  · exact ⟨_, exec_txFrag_fail busy hp hfit h, rfl, rfl, rfl, rfl, rfl⟩

/-- Settles O16: the failed write ends the send in `IDLE`, where a later request is accepted. -/
theorem failedWriteEndsTheSend : Obligations.FailedWriteEndsTheSend := by
  intro s f k more busy hp hfit h
  have he := exec_txFrag_fail busy hp hfit h
  refine ⟨_, _, he, failedPrefix_lt f s k, failedPrefix_eq, rfl, rfl, rfl, rfl, rfl, rfl, rfl, exec_txKeeps rfl he,
    fun hm bufs => ?_⟩
  exact ⟨_, exec_txSend_accepted bufs rfl hm, by rw [startTurn_out]; rfl, fun session as hans => startTurn_busy hans⟩

/-! ## `TX.DONE` and `TX.FERR` -/

theorem exec_txDone_complete {s : State} {tag' : Tag} (tag : Tag) (busy : s.tx.state = .busy)
    (hp : s.tx.pend = .complete tag') : exec (.txDone tag) s = .next (endSend (.ok tag) s) := by
  simp [exec, execTxDone, busy, hp]

theorem exec_txFerr_error {s : State} {e' : FragError} (e : FragError) (busy : s.tx.state = .busy)
    (hp : s.tx.pend = .error e') : exec (.txFerr e) s = .next (endSend (.fragError e) s) := by
  simp [exec, execTxFerr, busy, hp]

/-- Settles O18: both are the end of the send, each with its own response. -/
theorem txDoneAndTxFerrRespond : Obligations.TxDoneAndTxFerrRespond :=
  fun _ busy => ⟨fun tag _ hp => exec_txDone_complete tag busy hp, fun e _ hp => exec_txFerr_error e busy hp⟩

end Sys2Proof.Machine
end

section
/-! SUPPORT. What a step does at the SEND port and at the channel (41_outbound_framer.md R166, R175): through the
operations of TXF, since no other operation and no arrival touches TXF's ports. -/

namespace Sys2Proof.Machine

/-! ## What reaches TXF's outputs -/

/-- From `s` to `t` neither `tx_state` nor a response or a write of TXF changes. -/
structure TxSilent (s t : State) : Prop where
  state : t.tx.state = s.tx.state
  sendResults : t.out.sendResults = s.out.sendResults
  writes : t.out.writes = s.out.writes

/-- An operation that is not one of TXF is silent at TXF's ports. -/
theorem exec_txSilent {i : Instr} {s t : State} (hi : isTxOp i = false) (h : exec i s = .next t) : TxSilent s t := by
  obtain htx | hrx | ⟨c, rfl⟩ := instr_cases i
  · cases hi.symm.trans htx
  · have keeps := exec_rxKeeps hrx h
    exact ⟨by rw [keeps.tx], keeps.sendResults, keeps.writes⟩
  · rw [exec_hdrCall] at h
    cases h
    exact ⟨rfl, rfl, rfl⟩

/-- Selecting an operation is silent at TXF's ports. -/
theorem fetch_txSilent {ev : Stimulus} {u v : State} {i : Instr} (h : fetch ev u = some (i, v)) : TxSilent u v := by
  obtain ⟨-, -, rfl, -⟩ | ⟨-, -, rfl, -⟩ | ⟨-, -, -, _, _, -, -, rfl⟩ | ⟨-, -, rfl, -⟩ | ⟨-, -, _, _, -, -, rfl⟩ |
    ⟨_, -, -, rfl⟩ := fetch_cases h
  all_goals exact ⟨rfl, rfl, rfl⟩

/-- So is everything else an entry of the script does, reset apart. -/
theorem stimulate_txSilent {ev : Stimulus} (s : State) (h : ev ≠ .rst) : TxSilent s (stimulate ev s) := by
  cases ev with
  | rst => exact absurd rfl h
  | _ => exact ⟨rfl, rfl, rfl⟩

/-! ## Responses -/

/-- From `s` to `t` either a send ends and gets one response, or none ends and no response is given (R175). -/
def ResponseEndsSend (s t : State) : Prop :=
  (s.tx.state = .busy ∧ t.tx.state = .idle ∧ ∃ r, t.out.sendResults = s.out.sendResults ++ [r]) ∨
  (¬(s.tx.state = .busy ∧ t.tx.state = .idle) ∧ t.out.sendResults = s.out.sendResults)

/-- With `tx_state` and the responses unchanged no send ends. -/
theorem ResponseEndsSend.of_kept {s t : State} (state : t.tx.state = s.tx.state)
    (results : t.out.sendResults = s.out.sendResults) : ResponseEndsSend s t :=
  .inr ⟨fun ⟨busy, idle⟩ => absurd (busy.symm.trans (state.symm.trans idle)) nofun, results⟩

/-- No send ends in `IDLE`. -/
theorem ResponseEndsSend.of_idle {s t : State} (idle : s.tx.state = .idle)
    (results : t.out.sendResults = s.out.sendResults) : ResponseEndsSend s t :=
  .inr ⟨fun ⟨busy, _⟩ => absurd (idle.symm.trans busy) nofun, results⟩

theorem TxSilent.responseEndsSend {s t : State} (h : TxSilent s t) : ResponseEndsSend s t :=
  .of_kept h.state h.sendResults

/-- A silent change before it does not matter. -/
theorem ResponseEndsSend.after_txSilent {s v t : State} (h : ResponseEndsSend v t) (hsv : TxSilent s v) :
    ResponseEndsSend s t := by
  simpa only [ResponseEndsSend, hsv.state, hsv.sendResults] using h

theorem endSend_responseEndsSend (r : SendResult) {s : State} (busy : s.tx.state = .busy) :
    ResponseEndsSend s (endSend r s) :=
  .inl ⟨busy, rfl, r, rfl⟩

/-- Of the channel's answers only `Fail` ends the send (R165). -/
theorem writeTurn_responseEndsSend {s : State} (busy : s.tx.state = .busy) : ResponseEndsSend s (writeTurn s) := by
  obtain ⟨-, he⟩ | ⟨more, -, he⟩ | ⟨k, more, -, he⟩ | ⟨k, more, -, he⟩ := writeTurn_cases s <;> rw [he]
  iterate 3 exact .of_kept rfl rfl
  · exact .inl ⟨busy, rfl, .txError, rfl⟩

/-- An operation of TXF responds exactly when it ends a send (R175). -/
theorem exec_txOp_responseEndsSend {i : Instr} {s t : State} (hi : isTxOp i = true) (h : exec i s = .next t) :
    ResponseEndsSend s t := by
  cases i with
  | txSend bufs =>
    obtain ⟨idle, -, rfl⟩ | ⟨idle, -, rfl⟩ | ⟨-, rfl⟩ := exec_txSend_cases h
    · exact .of_idle idle (by rw [startTurn_out]; rfl)
    · exact .of_idle idle (by rw [startTurn_out])
    · exact .of_kept rfl rfl
  | txPull =>
    obtain rfl | ⟨_, _, -, -, -, -, rfl⟩ | ⟨_, _, -, -, -, rfl⟩ | ⟨_, _, -, -, -, rfl⟩ := exec_txPull_cases h
    all_goals exact .of_kept rfl rfl
  | txFrag f =>
    obtain rfl | ⟨busy, -, -, rfl⟩ | ⟨busy, -, rfl⟩ := exec_txFrag_cases h
    · exact .of_kept rfl rfl
    · exact writeTurn_responseEndsSend (s := beginWrite _ s) busy
    · exact writeTurn_responseEndsSend busy
  | txDone tag =>
    obtain rfl | ⟨_, busy, -, rfl⟩ := exec_txDone_cases h
    · exact .of_kept rfl rfl
    · exact endSend_responseEndsSend _ busy
  | txFerr e =>
    obtain rfl | ⟨_, busy, -, rfl⟩ := exec_txFerr_cases h
    · exact .of_kept rfl rfl
    · exact endSend_responseEndsSend _ busy
  | _ => cases hi

/-- Settles O24: a step that ends a send is an operation of TXF that ends it. -/
theorem everySendGetsExactlyOneResponse : Obligations.EverySendGetsExactlyOneResponse := by
  intro s t ev script _ hs hev h
  show ResponseEndsSend s t
  obtain ⟨hs', -⟩ | ⟨_, _, i, v, -, hf, he⟩ | ⟨_, _, hs', -, he⟩ := step_cases s
  · cases hs.symm.trans hs'
  · have hexec : exec i v = .next t := he.symm.trans h
    have hends : ResponseEndsSend v t := by
      cases hi : isTxOp i with
      | true => exact exec_txOp_responseEndsSend hi hexec
      | false => exact (exec_txSilent hi hexec).responseEndsSend
    exact hends.after_txSilent (s := popScript s) (fetch_txSilent hf)
  · cases hs.symm.trans hs'
    cases Host.Outcome.next.inj (he.symm.trans h)
    exact (stimulate_txSilent (popScript s) hev).responseEndsSend

/-! ## Writes -/

theorem writeTurn_writes (s : State) : (writeTurn s).out.writes = s.out.writes := by
  obtain ⟨-, he⟩ | ⟨more, -, he⟩ | ⟨k, more, -, he⟩ | ⟨k, more, -, he⟩ := writeTurn_cases s <;> rw [he] <;> rfl

/-- An operation begins no write, or that of the frame of one fragment within the contracts (R162, R166). -/
theorem exec_writes {i : Instr} {s t : State} (h : exec i s = .next t) :
    t.out.writes = s.out.writes ∨ ∃ f, fits f s ∧ t.out.writes = s.out.writes ++ [frameFor f s] := by
  cases i with
  | txSend bufs =>
    refine .inl ?_
    obtain ⟨-, -, rfl⟩ | ⟨-, -, rfl⟩ | ⟨-, rfl⟩ := exec_txSend_cases h
    · rw [startTurn_out]
      rfl
    · rw [startTurn_out]
    · rfl
  | txPull =>
    obtain rfl | ⟨_, _, -, -, -, -, rfl⟩ | ⟨_, _, -, -, -, rfl⟩ | ⟨_, _, -, -, -, rfl⟩ := exec_txPull_cases h
    all_goals exact .inl rfl
  | txFrag f =>
    obtain rfl | ⟨-, -, hfit, rfl⟩ | ⟨-, -, rfl⟩ := exec_txFrag_cases h
    · exact .inl rfl
    · exact .inr ⟨f, hfit, writeTurn_writes _⟩
    · exact .inl (writeTurn_writes s)
  | txDone tag => obtain rfl | ⟨_, -, -, rfl⟩ := exec_txDone_cases h <;> exact .inl rfl
  | txFerr e => obtain rfl | ⟨_, -, -, rfl⟩ := exec_txFerr_cases h <;> exact .inl rfl
  | _ => exact .inl (exec_txSilent rfl h).writes

/-- So does a step (R166). -/
theorem step_writes {s t : State} (h : step s = .next t) :
    t.out.writes = s.out.writes ∨ ∃ f, fits f s ∧ t.out.writes = s.out.writes ++ [frameFor f s] := by
  obtain ⟨-, he⟩ | ⟨ev, _, i, v, -, hf, he⟩ | ⟨ev, _, -, -, he⟩ := step_cases s
  · cases Host.Outcome.next.inj (he.symm.trans h)
    exact .inl rfl
  · obtain ⟨hpar, hcfg⟩ : v.par = s.par ∧ v.cfg = s.cfg := fetch_par_cfg (u := popScript s) hf
    have hwrites : v.out.writes = s.out.writes := (fetch_txSilent hf).writes
    have hw := exec_writes (he.symm.trans h)
    simpa only [fits, frameFor, busPacket, hpar, hcfg, hwrites] using hw
  · cases Host.Outcome.next.inj (he.symm.trans h)
    cases ev <;> exact .inl rfl

/-- Settles O25: what a step writes is a frame, whose header is legal and says what R166 asks of it. -/
theorem sentFramesCarryConfiguredAddresses : Obligations.SentFramesCarryConfiguredAddresses := by
  intro s t h
  refine (step_writes h).imp_right fun ⟨f, hfit, hw⟩ => ?_
  obtain ⟨hf, hpkt⟩ := hfit
  exact ⟨f, frameHeader f s, busPacket f s, hw, hf, rfl, parseInvertsSerialize.1 _ _ _ _, ofNat16_toNat hpkt⟩

end Sys2Proof.Machine
end

section
/-! SUPPORT. Turns of one agent in a row (30_encoding.md R117, 10_state.md R26): how they follow one another. -/

namespace Sys2Proof.Machine

/-- `s` with `script` as what happens next. -/
def State.withScript (s : State) (script : List Stimulus) : State := s.setInp { s.inp with script := script }

/-- `n` turns `ev` in a row take the block from `s` to `t`, whatever happens after them. The scripts of `s` and `t` do not
matter. -/
def Turns (ev : Stimulus) (n : Nat) (s t : State) : Prop :=
  ∀ script, runSteps n (s.withScript (List.replicate n ev ++ script)) = .next (t.withScript script)

section
variable {ev : Stimulus} {s t u : State} {n m : Nat}

theorem Turns.refl : Turns ev 0 s s := fun _ => rfl

theorem Turns.one (h : ∀ script, step (s.withScript (ev :: script)) = .next (t.withScript script)) : Turns ev 1 s t :=
  fun script => runSteps_next 0 (h script)

theorem Turns.trans (h : Turns ev n s t) (k : Turns ev m t u) : Turns ev (n + m) s u := by
  intro script
  rw [List.replicate_add, List.append_assoc, Nat.add_comm]
  exact (runSteps_add n m (h _)).trans (k script)

/-- A run whose script begins with the turns. -/
theorem Turns.run {script : List Stimulus} (h : Turns ev n s t) (hs : s.inp.script = List.replicate n ev ++ script) :
    runSteps n s = .next (t.withScript script) := by
  rw [← h script, ← hs]
  rfl

end

end Sys2Proof.Machine
end

section
/-! SUPPORT. Whole sends (41_outbound_framer.md R169, R174): the turns of TXF from one operation to the next, and the
fragments of a send by induction. -/

namespace Sys2Proof.Machine

/-- `s` after a request for `msg` was served and `FragStart` answered with `session` (R160). -/
def afterStart (msg : Bytes) (session : Session) (held : List (List Bytes)) (starts : List Session) (s : State) :
    State :=
  ((s.setInp { s.inp with sendReqs := held, startAns := starts }).setOut
    { s.out with fragStarts := s.out.fragStarts ++ [{ msg := msg, mtu := s.par.mtu }] }).setTx
    { s.tx with prod := session, state := .busy, pend := .none, starting := none }

/-- `s` after the fragments `fs` were pulled, framed and written, with TXF at `r`. -/
def afterFragments (fs : List Bytes) (s : State) (r : TxRegs) (frags : List FragAns) (writes : List WriteAns) : State :=
  ((s.setInp { s.inp with fragAns := frags, writeAns := writes }).setOut
    { s.out with outStream := s.out.outStream ++ (fs.map (fun f => frameFor f s)).flatten
                 writes := s.out.writes ++ fs.map (fun f => frameFor f s)
                 fragNexts := s.out.fragNexts ++ List.replicate fs.length s.tx.prod }).setTx r

/-- TXF is between two fragments of a send: nothing is pending (R161). -/
def State.betweenFragments (s : State) : Prop := s.tx.state = .busy ∧ s.tx.pend = .none

section
variable {s : State} {frags : List FragAns} {writes : List WriteAns}

/-! ## Turns -/

/-- The turn that serves a request, with the engine's answer there, begins the send (R160, R170). -/
theorem turn_startsSend {bufs : List Bytes} {held : List (List Bytes)} {session : Session} {starts : List Session}
    (idle : s.tx.state = .idle) (hm : s.tx.starting = none) (hr : s.inp.sendReqs = bufs :: held)
    (hstart : s.inp.startAns = session :: starts) :
    Turns .tx 1 s (afterStart bufs.flatten session held starts s) := by
  refine .one fun script => ?_
  rw [step_servesRequest (s := s.withScript (.tx :: script)) idle hm hr rfl, exec_txSend_accepted bufs,
    startTurn_answered (more := starts)]
  · rfl
  · exact hstart
  · exact idle
  · exact hm

/-- In a send TXF's turn is the operation that the pending outcome selects (R117). -/
theorem turn_tx {i : Instr} {t : State} (hi : ∀ script, fetchTx (s.withScript script) = some (i, s.withScript script))
    (h : ∀ script, exec i (s.withScript script) = .next (t.withScript script)) : Turns .tx 1 s t :=
  .one fun script => (step_of_fetch (s := s.withScript (.tx :: script)) rfl (hi script)).trans (h script)

theorem turn_txPull {a : FragAns} (hs : s.betweenFragments) (ha : s.inp.fragAns = a :: frags)
    (hfit : ∀ f, a = .packet f → f.length ≤ s.par.mtu) : Turns .tx 1 s (afterPull a frags s) := by
  obtain ⟨busy, hp⟩ := hs
  refine turn_tx (fun script => (fetchTx_busy (s := s.withScript script) busy).trans ?_) fun script =>
    exec_txPull_answered (s := s.withScript script) busy hp ha hfit
  rw [State.withScript, State.setInp_tx, hp]

theorem turn_txFrag {t : State} (busy : s.tx.state = .busy) (hp : s.tx.pend = .packet)
    (h : ∀ script, exec (.txFrag s.tx.frag) (s.withScript script) = .next (t.withScript script)) : Turns .tx 1 s t := by
  refine turn_tx (fun script => (fetchTx_busy (s := s.withScript script) busy).trans ?_) h
  rw [State.withScript, State.setInp_tx, hp]

/-- The turn with a completion pending ends the send with its tag (R163). -/
theorem turn_txDone {tag : Tag} (busy : s.tx.state = .busy) (hp : s.tx.pend = .complete tag) :
    Turns .tx 1 s (endSend (.ok tag) s) := by
  refine turn_tx (fun script => (fetchTx_busy (s := s.withScript script) busy).trans ?_) fun script =>
    exec_txDone_complete (s := s.withScript script) tag busy hp
  rw [State.withScript, State.setInp_tx, hp]

/-- The turn with a producer's error pending ends the send with it (R164). -/
theorem turn_txFerr {e : FragError} (busy : s.tx.state = .busy) (hp : s.tx.pend = .error e) :
    Turns .tx 1 s (endSend (.fragError e) s) := by
  refine turn_tx (fun script => (fetchTx_busy (s := s.withScript script) busy).trans ?_) fun script =>
    exec_txFerr_error (s := s.withScript script) e busy hp
  rw [State.withScript, State.setInp_tx, hp]

/-! ## The last two turns of a send -/

theorem turns_complete {tag : Tag} (hs : s.betweenFragments) (ha : s.inp.fragAns = .complete tag :: frags) :
    Turns .tx 2 s (endSend (.ok tag) (afterPull (.complete tag) frags s)) :=
  (turn_txPull hs ha nofun).trans (turn_txDone (s := afterPull (.complete tag) frags s) hs.1 rfl)

theorem turns_error {e : FragError} (hs : s.betweenFragments) (ha : s.inp.fragAns = .error e :: frags) :
    Turns .tx 2 s (endSend (.fragError e) (afterPull (.error e) frags s)) :=
  (turn_txPull hs ha nofun).trans (turn_txFerr (s := afterPull (.error e) frags s) hs.1 rfl)

/-- A pull and a write that fails: only part of the frame goes out (R165). -/
theorem turns_failedFragment {f : Bytes} {k : Nat} (hs : s.betweenFragments) (hfit : fits f s)
    (ha : s.inp.fragAns = .packet f :: frags) (hw : s.inp.writeAns = .fail k :: writes) :
    Turns .tx 2 s (respond .txError
      (frameOver f (afterPull (.packet f) frags s) (failedPrefix f s k) .idle writes)) := by
  have hwrite : Turns .tx 1 (afterPull (.packet f) frags s) (respond .txError
      (frameOver f (afterPull (.packet f) frags s) (failedPrefix f s k) .idle writes)) :=
    turn_txFrag hs.1 rfl fun script =>
      exec_txFrag_fail (s := (afterPull (.packet f) frags s).withScript script) hs.1 rfl hfit hw
  exact (turn_txPull hs ha (by rintro _ ⟨⟩; exact hfit.1)).trans hwrite

/-! ## The fragments of a send -/

/-- A pull and a write: one fragment goes out whole (R161, R162). -/
theorem turns_fragment {f : Bytes} (hs : s.betweenFragments) (hfit : fits f s)
    (ha : s.inp.fragAns = .packet f :: frags) (hw : s.inp.writeAns = .ok :: writes) :
    ∃ r, r.state = .busy ∧ r.pend = .none ∧ r.prod = s.tx.prod ∧
      Turns .tx 2 s (afterFragments [f] s r frags writes) := by
  have hwrite : Turns .tx 1 (afterPull (.packet f) frags s)
      (frameOver f (afterPull (.packet f) frags s) (frameFor f s).length .busy writes) :=
    turn_txFrag hs.1 rfl fun script =>
      exec_txFrag_ok (s := (afterPull (.packet f) frags s).withScript script) hs.1 rfl hfit hw
  refine ⟨(frameOver f (afterPull (.packet f) frags s) 0 .busy writes).tx, rfl, rfl, rfl, ?_⟩
  rw [frameOver, show frameFor f (afterPull (.packet f) frags s) = frameFor f s from rfl, List.take_length] at hwrite
  rw [afterFragments, List.map_singleton, List.flatten_singleton]
  exact (turn_txPull hs ha (by rintro _ ⟨⟩; exact hfit.1)).trans hwrite

/-- Fragments after a first one are written from where it leaves the state. -/
theorem afterFragments_cons (f : Bytes) (fs : List Bytes) {r : TxRegs} (r' : TxRegs) (hprod : r.prod = s.tx.prod)
    (frags' : List FragAns) (writes' : List WriteAns) :
    afterFragments fs (afterFragments [f] s r frags writes) r' frags' writes' =
      afterFragments (f :: fs) s r' frags' writes' := by
  have hframe (g : Bytes) : frameFor g (afterFragments [f] s r frags writes) = frameFor g s := rfl
  simp only [afterFragments.eq_def fs, hframe]
  simp [afterFragments, hprod, List.replicate_succ, State.setInp, State.setOut, State.setTx]

/-- Any number of fragments, each within its contracts, on a channel that takes every write (R169). -/
theorem turns_fragments (fs : List Bytes) (hs : s.betweenFragments) (hfit : ∀ f ∈ fs, fits f s)
    (ha : s.inp.fragAns = fs.map FragAns.packet ++ frags)
    (hw : s.inp.writeAns = List.replicate fs.length .ok ++ writes) :
    ∃ r, r.state = .busy ∧ r.pend = .none ∧ r.prod = s.tx.prod ∧
      Turns .tx (2 * fs.length) s (afterFragments fs s r frags writes) := by
  induction fs generalizing s with
  | nil =>
    refine ⟨s.tx, hs.1, hs.2, rfl, ?_⟩
    have hnone : afterFragments [] s s.tx frags writes = s := by
      simp [afterFragments, ← show s.inp.fragAns = frags from ha, ← show s.inp.writeAns = writes from hw, State.setInp,
        State.setOut, State.setTx]
    rw [hnone]
    exact .refl
  | cons f fs ih =>
    obtain ⟨hf, hfs⟩ := List.forall_mem_cons.mp hfit
    obtain ⟨r, busy, hp, hprod, hfirst⟩ := turns_fragment hs hf ha hw
    obtain ⟨r', busy', hp', hprod', hrest⟩ :=
      ih (s := afterFragments [f] s r (fs.map .packet ++ frags) (List.replicate fs.length .ok ++ writes))
        ⟨busy, hp⟩ hfs rfl rfl
    refine ⟨r', busy', hp', hprod'.trans hprod, ?_⟩
    rw [afterFragments_cons f fs r' hprod] at hrest
    rw [List.length_cons, Nat.mul_succ, Nat.add_comm]
    exact hfirst.trans hrest

end

/-- Settles O21: the request is served, its fragments go out, the completion ends the send. -/
theorem sendWritesOneFramePerFragment : Obligations.SendWritesOneFramePerFragment := by
  intro s bufs held fs tag script session starts frags writes idle hm hr hstart hfit hs ha hw
  have hbegin := turn_startsSend idle hm hr hstart
  obtain ⟨r, busy, hp, -, hfrags⟩ :=
    turns_fragments (s := afterStart bufs.flatten session held starts s) fs ⟨rfl, rfl⟩ hfit ha hw
  have hend := turns_complete (s := afterFragments fs (afterStart bufs.flatten session held starts s) r
    (.complete tag :: frags) writes) ⟨busy, hp⟩ rfl
  have hcount : 1 + 2 * fs.length + 2 = 2 * fs.length + 3 := by omega
  have hrun := ((hbegin.trans hfrags).trans hend).run (script := script) (by rw [hcount]; exact hs)
  rw [hcount] at hrun
  refine ⟨_, hrun, rfl, rfl, rfl, rfl, rfl, rfl, ?_, ?_, rfl, rfl⟩ <;>
    simp [endSend, respond, afterPull, afterFragments, afterStart, State.withScript]

/-- Settles O23: the fragments before the failure go out whole; the last two turns are the failure. -/
theorem failedSendLeavesWholeFrames : Obligations.FailedSendLeavesWholeFrames := by
  intro s fs script busy hp hfit hs
  refine ⟨fun e frags writes ha hw => ?_, fun f k frags writes ha hf hw => ?_⟩
  · obtain ⟨r, busy', hp', -, hfrags⟩ := turns_fragments fs ⟨busy, hp⟩ hfit ha hw
    have hend := turns_error (s := afterFragments fs s r (.error e :: frags) writes) ⟨busy', hp'⟩ rfl
    refine ⟨_, (hfrags.trans hend).run hs, rfl, rfl, rfl, rfl, ?_⟩
    simp [endSend, respond, afterPull, afterFragments, State.withScript]
  · obtain ⟨r, busy', hp', -, hfrags⟩ := turns_fragments fs ⟨busy, hp⟩ hfit ha hw
    have hend := turns_failedFragment
      (s := afterFragments fs s r (.packet f :: frags) (.fail k :: writes)) ⟨busy', hp'⟩ hf rfl rfl
    refine ⟨_, _, (hfrags.trans hend).run hs, rfl, failedPrefix_lt f s k, rfl, rfl, rfl, ?_⟩
    simp [respond, frameOver, afterPull, afterFragments, State.withScript]

end Sys2Proof.Machine
end

section
/-! SUPPORT. One whole frame through RXP (42_inbound_parser.md R191 to R197, R205, R237): the turns from its first byte to
its verdict. -/

namespace Sys2Proof.Machine

/-! ## What each step of RXP answers -/

section
variable {s : State}

/-- A turn of a read whose count is reached leaves the phase (R56, R203). -/
theorem readTurn_full {n : Nat} {next : RxPhase} {store : Byte → RxRegs → RxRegs} {short failed : RxCause}
    (h : n ≤ s.rx.cnt.toNat) :
    readTurn n next store short failed s = s.setRx { s.rx with phase := next, cnt := 0 } := by
  simp [readTurn, readNext, h]

/-- A turn of a read that meets the end of the stream before the count is reached stops RXP (R56). -/
theorem readTurn_eos {n : Nat} {next : RxPhase} {store : Byte → RxRegs → RxRegs} {short failed : RxCause}
    {more : List RxAns} (hlt : s.rx.cnt.toNat < n) (h : s.inp.rxAns = .eos :: more) :
    readTurn n next store short failed s = stopRx short (s.setInp { s.inp with rxAns := more }) := by
  simp [readTurn, readNext, h, popRx, Nat.not_le.mpr hlt]

theorem decodePayload_ok {d : BusDecoded} (h : s.par.busDecode s.cfg.pec s.rx.payload = some d) :
    decodePayload s = s.setRx { s.rx with frag := d.frag, bdst := d.bdst, phase := .rck } := by
  simp [decodePayload, h]

theorem decodePayload_fail (h : s.par.busDecode s.cfg.pec s.rx.payload = none) :
    decodePayload s = dropFrame .decodeFail s := by
  simp [decodePayload, h]

/-- What was stored ends with the byte at `k`, so it has at most `k + 1` bytes (R25 `rx_pbuf`). -/
theorem take_storeAt (buf : Bytes) (k : Nat) (x : Byte) : (storeAt buf k x).take (k + 1) = storeAt buf k x :=
  List.take_of_length_le (by simp [storeAt])

/-- RXP's turn while `RUNNING` is the function of its phase (R117, R190). -/
theorem turn_atPhase {p : RxPhase} {f : State → State} {t : State}
    (hexec : ∀ u, exec (phaseInstr p) u = .next (atPhase p f u)) (run : s.rx.state = .running) (phase : s.rx.phase = p)
    (h : ∀ script, f (s.withScript script) = t.withScript script) : Turns .rxp 1 s t := by
  refine .one fun script => ?_
  have hphase : (s.withScript (.rxp :: script)).rx.phase = p := phase
  rw [step_rxp (s := s.withScript (.rxp :: script)) run rfl, hphase, hexec, ← h]
  exact congrArg _ (atPhase_of (s := s.withScript script) f run phase)

end

/-! ## The header -/

/-- `s` with a legal header of the fields `len`, `src`, `dst` taken and checked (R192). -/
def afterHeader (s : State) (len : Len) (src dst : Byte) (more : List RxAns) : State :=
  ((s.setInp { s.inp with rxAns := more }).setOut { s.out with inTaken := s.out.inTaken + hdrW }).setRx
    { s.rx with hbuf := serialize s.par len src dst, len := len, src := src, dst := dst, phase := .pay, cnt := 0 }

section
variable {s : State} {more : List RxAns}

/-- Seven turns take a legal header and check it (R191, R192). -/
theorem turns_header {len : Len} {src dst : Byte} (hb : s.atBoundary = true)
    (h : s.inp.rxAns = (serialize s.par len src dst).toList.map RxAns.byte ++ more) :
    Turns .rxp (hdrW + 1) s (afterHeader s len src dst more) := by
  intro script
  have whole := step_wholeHeader (s := s.withScript (.rxpHeader :: script)) hb h rfl
  refine (wholeHeaderTurnEqualsByteTurns s _ more script hb h).trans ((runSteps_next 0 whole).trans ?_)
  have hcheck := checkHeader_ok (s := headerIn (s.withScript (.rxpHeader :: script)) (serialize s.par len src dst) more
    script) (parseInvertsSerialize.1 s.par len src dst)
  rw [hcheck]
  rfl

end

/-! ## The payload -/

/-- `s` with the payload in: `n` bytes more were taken and `rx_pbuf` is `pbuf` (R193). -/
def payloadIn (s : State) (pbuf : Bytes) (n : Nat) (more : List RxAns) : State :=
  ((s.setInp { s.inp with rxAns := more }).setOut { s.out with inTaken := s.out.inTaken + n }).setRx
    { s.rx with pbuf := pbuf, phase := .flt, cnt := 0 }

/-- `s` after a payload byte that is not the last (R193). -/
def afterByte (s : State) (b : Byte) (more : List RxAns) : State :=
  ((s.setInp { s.inp with rxAns := more }).setOut { s.out with inTaken := s.out.inTaken + 1 }).setRx
    { s.rx with pbuf := storeAt s.rx.pbuf s.rx.cnt.toNat b, cnt := s.rx.cnt + 1 }

/-- `s` after the last payload bytes `bs`, put behind those already taken. -/
def afterPayload (s : State) (bs : Bytes) (more : List RxAns) : State :=
  payloadIn s (s.rx.pbuf.take s.rx.cnt.toNat ++ bs) bs.length more

section
variable {s : State} {more : List RxAns}

/-- A byte and then the others are the payload bytes in a row. -/
theorem afterPayload_afterByte (b : Byte) (bs : Bytes) (more' : List RxAns)
    (hcnt : (s.rx.cnt + 1).toNat = s.rx.cnt.toNat + 1) :
    afterPayload (afterByte s b more') bs more = afterPayload s (b :: bs) more := by
  have hpbuf : (afterByte s b more').rx.pbuf.take (afterByte s b more').rx.cnt.toNat =
      storeAt s.rx.pbuf s.rx.cnt.toNat b := by
    rw [show (afterByte s b more').rx.cnt = s.rx.cnt + 1 from rfl, hcnt]
    exact take_storeAt ..
  rw [afterPayload, hpbuf]
  simp [afterPayload, payloadIn, afterByte, storeAt, State.setRx, State.setInp, State.setOut, Nat.add_assoc,
    Nat.add_comm 1]

theorem turn_payloadByte {b : Byte} (run : s.rx.state = .running) (phase : s.rx.phase = .pay)
    (h : s.inp.rxAns = .byte b :: more) (hlt : s.rx.cnt.toNat + 1 < s.rx.len.toNat) :
    Turns .rxp 1 s (afterByte s b more) :=
  turn_atPhase (f := readPayloadByte) (fun _ => rfl) run phase fun script =>
    (readTurn_byte (s := s.withScript script) (Nat.lt_of_succ_lt hlt) h).trans (if_pos hlt)

theorem turn_lastPayloadByte {b : Byte} (run : s.rx.state = .running) (phase : s.rx.phase = .pay)
    (h : s.inp.rxAns = .byte b :: more) (hlast : s.rx.cnt.toNat + 1 = s.rx.len.toNat) :
    Turns .rxp 1 s (afterPayload s [b] more) :=
  turn_atPhase (f := readPayloadByte) (fun _ => rfl) run phase fun script =>
    (readTurn_byte (s := s.withScript script) (hlast ▸ Nat.lt_succ_self _) h).trans (if_neg hlast.not_lt)

/-- The turns of a payload of one or more bytes, one for each byte. -/
theorem turns_payloadBytes (b : Byte) (bs : Bytes) (run : s.rx.state = .running) (phase : s.rx.phase = .pay)
    (h : s.inp.rxAns = (b :: bs).map RxAns.byte ++ more) (hlen : s.rx.cnt.toNat + (b :: bs).length = s.rx.len.toNat) :
    Turns .rxp (b :: bs).length s (afterPayload s (b :: bs) more) := by
  induction bs generalizing s b with
  | nil => exact turn_lastPayloadByte run phase h hlen
  | cons b' bs ih =>
    have hlt : s.rx.cnt.toNat + 1 < s.rx.len.toNat := by simp only [List.length_cons] at hlen; omega
    have hcnt : (s.rx.cnt + 1).toNat = s.rx.cnt.toNat + 1 := cnt_succ_toNat (hlt.trans s.rx.len.isLt)
    have hrest := ih (s := afterByte s b ((b' :: bs).map RxAns.byte ++ more)) b' run phase rfl (by
      rw [show (afterByte s b _).rx.cnt = s.rx.cnt + 1 from rfl, hcnt]
      simp only [List.length_cons] at hlen ⊢
      exact (Nat.add_assoc _ 1 _).trans ((congrArg _ (Nat.add_comm 1 _)).trans hlen))
    rw [afterPayload_afterByte b (b' :: bs) _ hcnt] at hrest
    rw [List.length_cons, Nat.add_comm]
    exact (turn_payloadByte run phase h hlt).trans hrest

/-- The turns of a whole payload: one for each byte, and one if there is none (R203). -/
theorem turns_payload (pay : Bytes) (run : s.rx.state = .running) (phase : s.rx.phase = .pay) (cnt : s.rx.cnt = 0)
    (hlen : pay.length = s.rx.len.toNat) (h : s.inp.rxAns = pay.map RxAns.byte ++ more) :
    ∃ pbuf : Bytes, pbuf.take s.rx.len.toNat = pay ∧
      Turns .rxp (max 1 pay.length) s (payloadIn s pbuf pay.length more) := by
  have hcnt : s.rx.cnt.toNat = 0 := by rw [cnt]; rfl
  cases pay with
  | nil =>
    have hlen0 : s.rx.len.toNat = 0 := hlen.symm
    subst h
    exact ⟨s.rx.pbuf, by rw [hlen0]; rfl, turn_atPhase (f := readPayloadByte) (fun _ => rfl) run phase fun script =>
      readTurn_full (s := s.withScript script) (hlen0.trans_le (Nat.zero_le _))⟩
  | cons b bs =>
    have hturns := turns_payloadBytes b bs run phase h (by rw [hcnt, Nat.zero_add]; exact hlen)
    rw [afterPayload, hcnt] at hturns
    rw [Nat.max_eq_right (show 1 ≤ (b :: bs).length from Nat.succ_pos _)]
    exact ⟨b :: bs, by rw [← hlen, List.take_length], hturns⟩

end

/-! ## The verdict -/

/-- How many turns a verdict takes, from `RX.FLT` on (R194 to R197). -/
def Verdict.turns : Verdict → Nat
  | .drop .dropFrameDest => 1
  | .drop .decodeFail => 2
  | .drop _ => 3
  | .accept _ => 4

theorem InFrame.turns_eq (p : Params) (c : CfgRegs) (f : InFrame) :
    f.turns p c = hdrW + 1 + max 1 f.payload.length + (f.verdict p c).turns := rfl

section
variable {p : Params} {c : CfgRegs} {f : InFrame} {d : BusDecoded}

theorem verdict_foreign (h : f.dst ≠ c.localAddr) : f.verdict p c = .drop .dropFrameDest := if_pos h

theorem verdict_undecoded (h : f.dst = c.localAddr) (hd : p.busDecode c.pec f.payload = none) :
    f.verdict p c = .drop .decodeFail := by
  simp [InFrame.verdict, h, hd]

theorem verdict_inner_foreign (h : f.dst = c.localAddr) (hd : p.busDecode c.pec f.payload = some d)
    (hb : d.bdst ≠ c.localAddr) : f.verdict p c = .drop .dropBusDest := by
  simp [InFrame.verdict, h, hd, hb]

theorem verdict_accept (h : f.dst = c.localAddr) (hd : p.busDecode c.pec f.payload = some d)
    (hb : d.bdst = c.localAddr) : f.verdict p c = .accept d.frag := by
  simp [InFrame.verdict, h, hd, hb]

end

/-- `s` in phase `ph` with `rx_frag` and `rx_bdst` as given. -/
def inPhase (s : State) (ph : RxPhase) (frag : Bytes) (bdst : Byte) : State :=
  s.setRx { s.rx with phase := ph, frag := frag, bdst := bdst }

/-- `s` once its frame has come to verdict `v` and RXP is back at a frame boundary, with `rx_frag` and `rx_bdst` as
given; `a` is the engine's next answer and `as` those after it. -/
def afterVerdict (s : State) (v : Verdict) (a : InbAns) (as : List InbAns) (frag : Bytes) (bdst : Byte) : State :=
  ((s.setInp { s.inp with inbAns := v.answersLeft (a :: as) }).setOut
    { s.out with deliveries := s.out.deliveries ++ v.deliveries, log := s.out.log ++ v.log a }).setRx
    { s.rx with phase := .hdr, cnt := 0, frag := frag, bdst := bdst }

section
variable {s : State} {frag : Bytes} {bdst : Byte} {a : InbAns} {as : List InbAns}

/-- A drop is its verdict: one event, no call of the engine (R233). -/
theorem dropFrame_inPhase (ph : RxPhase) (e : LogEvent) (h : s.inp.inbAns = a :: as) (script : List Stimulus) :
    dropFrame e ((inPhase s ph frag bdst).withScript script) =
      (afterVerdict s (.drop e) a as frag bdst).withScript script := by
  simp [afterVerdict, Verdict.answersLeft, Verdict.deliveries, Verdict.log, dropFrame, nextFrame, logEvent, inPhase,
    State.withScript, State.setInp, State.setOut, State.setRx, ← h]

theorem turn_filter_mine (run : s.rx.state = .running) (h : s.rx.dst = s.cfg.localAddr) :
    Turns .rxp 1 (inPhase s .flt frag bdst) (inPhase s .dec frag bdst) :=
  turn_atPhase (f := filterFrame) (fun _ => rfl) run rfl fun _ => if_neg (not_not.mpr h)

theorem turn_filter_foreign (run : s.rx.state = .running) (h : s.rx.dst ≠ s.cfg.localAddr)
    (hinb : s.inp.inbAns = a :: as) :
    Turns .rxp 1 (inPhase s .flt frag bdst) (afterVerdict s (.drop .dropFrameDest) a as frag bdst) :=
  turn_atPhase (f := filterFrame) (fun _ => rfl) run rfl fun script =>
    (if_pos h).trans (dropFrame_inPhase .flt _ hinb script)

theorem turn_decode_ok {d : BusDecoded} (run : s.rx.state = .running)
    (h : s.par.busDecode s.cfg.pec s.rx.payload = some d) :
    Turns .rxp 1 (inPhase s .dec frag bdst) (inPhase s .rck d.frag d.bdst) :=
  turn_atPhase (f := decodePayload) (fun _ => rfl) run rfl fun script =>
    decodePayload_ok (s := (inPhase s .dec frag bdst).withScript script) h

theorem turn_decode_fail (run : s.rx.state = .running) (h : s.par.busDecode s.cfg.pec s.rx.payload = none)
    (hinb : s.inp.inbAns = a :: as) :
    Turns .rxp 1 (inPhase s .dec frag bdst) (afterVerdict s (.drop .decodeFail) a as frag bdst) :=
  turn_atPhase (f := decodePayload) (fun _ => rfl) run rfl fun script =>
    (decodePayload_fail (s := (inPhase s .dec frag bdst).withScript script) h).trans
      (dropFrame_inPhase .dec _ hinb script)

theorem turn_recheck_mine (run : s.rx.state = .running) (h : bdst = s.cfg.localAddr) :
    Turns .rxp 1 (inPhase s .rck frag bdst) (inPhase s .dlv frag bdst) :=
  turn_atPhase (f := recheckDest) (fun _ => rfl) run rfl fun _ => if_neg (not_not.mpr h)

theorem turn_recheck_foreign (run : s.rx.state = .running) (h : bdst ≠ s.cfg.localAddr)
    (hinb : s.inp.inbAns = a :: as) :
    Turns .rxp 1 (inPhase s .rck frag bdst) (afterVerdict s (.drop .dropBusDest) a as frag bdst) :=
  turn_atPhase (f := recheckDest) (fun _ => rfl) run rfl fun script =>
    (if_pos h).trans (dropFrame_inPhase .rck _ hinb script)

/-- The delivery of a decoded fragment, with the engine's answer there (R197). -/
theorem turn_deliver (run : s.rx.state = .running) (hinb : s.inp.inbAns = a :: as) :
    Turns .rxp 1 (inPhase s .dlv frag bdst) (afterVerdict s (.accept frag) a as frag bdst) := by
  refine turn_atPhase (f := deliverFragment) (fun _ => rfl) run rfl fun script => ?_
  cases a <;>
    simp [deliverFragment, inPhase, State.withScript, hinb, afterVerdict, Verdict.answersLeft, Verdict.deliveries,
      Verdict.log, nextFrame, logEvent, deliver, State.setInp, State.setOut, State.setRx]

/-- From the filter on, a frame whose payload is in comes to its verdict (R194 to R197, R237). -/
theorem turns_verdict {f : InFrame} (run : s.rx.state = .running) (hdst : s.rx.dst = f.dst)
    (hpay : s.rx.payload = f.payload) (hinb : s.inp.inbAns = a :: as) :
    ∃ frag' bdst', Turns .rxp (f.verdict s.par s.cfg).turns (inPhase s .flt frag bdst)
      (afterVerdict s (f.verdict s.par s.cfg) a as frag' bdst') := by
  by_cases hmine : s.rx.dst = s.cfg.localAddr
  · have hfmine : f.dst = s.cfg.localAddr := hdst ▸ hmine
    have hfilter : Turns .rxp 1 (inPhase s .flt frag bdst) _ := turn_filter_mine run hmine
    cases hdec : s.par.busDecode s.cfg.pec s.rx.payload with
    | none =>
      rw [verdict_undecoded hfmine (hpay ▸ hdec)]
      exact ⟨_, _, hfilter.trans (turn_decode_fail run hdec hinb)⟩
    | some d =>
      have hdecode := hfilter.trans (turn_decode_ok run hdec)
      by_cases hinner : d.bdst = s.cfg.localAddr
      · rw [verdict_accept hfmine (hpay ▸ hdec) hinner]
        exact ⟨_, _, (hdecode.trans (turn_recheck_mine run hinner)).trans (turn_deliver run hinb)⟩
      · rw [verdict_inner_foreign hfmine (hpay ▸ hdec) hinner]
        exact ⟨_, _, hdecode.trans (turn_recheck_foreign run hinner hinb)⟩
  · rw [verdict_foreign (hdst ▸ hmine)]
    exact ⟨_, _, turn_filter_foreign run hmine hinb⟩

end

/-! ## One frame -/

/-- `s` once the whole frame `f` has come in and has come to its verdict; `pbuf`, `frag` and `bdst` are what it leaves
in RXP. -/
def afterFrame (s : State) (f : InFrame) (more : List RxAns) (a : InbAns) (as : List InbAns) (pbuf frag : Bytes)
    (bdst : Byte) : State :=
  ((s.setInp { s.inp with rxAns := more, inbAns := (f.verdict s.par s.cfg).answersLeft (a :: as) }).setOut
    { s.out with inTaken := s.out.inTaken + hdrW + f.payload.length
                 deliveries := s.out.deliveries ++ (f.verdict s.par s.cfg).deliveries
                 log := s.out.log ++ (f.verdict s.par s.cfg).log a }).setRx
    { s.rx with hbuf := serialize s.par f.len f.src f.dst, len := f.len, src := f.src, dst := f.dst, pbuf := pbuf
                phase := .hdr, cnt := 0, frag := frag, bdst := bdst }

section
variable {s : State} {f : InFrame} {more : List RxAns} {a : InbAns} {as : List InbAns}

/-- From the checked header on: the payload comes in, and the frame to its verdict. -/
theorem turns_payload_verdict (run : s.rx.state = .running) (phase : s.rx.phase = .pay) (cnt : s.rx.cnt = 0)
    (hdst : s.rx.dst = f.dst) (hlen : f.payload.length = s.rx.len.toNat)
    (h : s.inp.rxAns = f.payload.map RxAns.byte ++ more) (hinb : s.inp.inbAns = a :: as) :
    ∃ pbuf frag bdst, Turns .rxp (max 1 f.payload.length + (f.verdict s.par s.cfg).turns) s
      (afterVerdict (payloadIn s pbuf f.payload.length more) (f.verdict s.par s.cfg) a as frag bdst) := by
  obtain ⟨pbuf, hpbuf, hpay⟩ := turns_payload f.payload run phase cnt hlen h
  obtain ⟨frag, bdst, hverdict⟩ := turns_verdict (s := payloadIn s pbuf f.payload.length more) (frag := s.rx.frag)
    (bdst := s.rx.bdst) run hdst hpbuf hinb
  exact ⟨pbuf, frag, bdst, hpay.trans hverdict⟩

theorem afterHeader_par (len : Len) (src dst : Byte) : (afterHeader s len src dst more).par = s.par := by
  simp [afterHeader]

theorem afterHeader_cfg (len : Len) (src dst : Byte) : (afterHeader s len src dst more).cfg = s.cfg := by
  simp [afterHeader]

/-- Header, payload and verdict in a row are the frame. -/
theorem afterVerdict_payloadIn_afterHeader (more' : List RxAns) (pbuf frag : Bytes) (bdst : Byte) :
    afterVerdict (payloadIn (afterHeader s f.len f.src f.dst more') pbuf f.payload.length more)
      (f.verdict s.par s.cfg) a as frag bdst = afterFrame s f more a as pbuf frag bdst := by
  simp [afterFrame, afterVerdict, payloadIn, afterHeader, State.setInp, State.setOut, State.setRx]

/-- One whole frame, from its first byte to its verdict (R205). -/
theorem turns_frame (hb : s.atBoundary = true) (hexact : f.exact)
    (h : s.inp.rxAns = (f.bytes s.par).map RxAns.byte ++ more) (hinb : s.inp.inbAns = a :: as) :
    ∃ pbuf frag bdst, Turns .rxp (f.turns s.par s.cfg) s (afterFrame s f more a as pbuf frag bdst) := by
  obtain ⟨run, -, -⟩ := atBoundary_iff.mp hb
  rw [InFrame.bytes, List.map_append, List.append_assoc] at h
  obtain ⟨pbuf, frag, bdst, hrest⟩ := turns_payload_verdict (more := more)
    (s := afterHeader s f.len f.src f.dst (f.payload.map RxAns.byte ++ more)) run rfl rfl rfl hexact rfl hinb
  rw [afterHeader_par, afterHeader_cfg, afterVerdict_payloadIn_afterHeader] at hrest
  refine ⟨pbuf, frag, bdst, ?_⟩
  rw [InFrame.turns_eq, Nat.add_assoc]
  exact (turns_header hb h).trans hrest

end

end Sys2Proof.Machine
end

section
/-! SUPPORT. Frames in a row (42_inbound_parser.md R202, R206): each comes to its verdict, and the end of the stream
behind them closes RXP clean. -/

namespace Sys2Proof.Machine

/-- RXP has come from `s` to `t` through the frames `fs`, with `more` left of the inbound stream (R202). -/
structure FramesHandled (fs : List InFrame) (more : List RxAns) (s t : State) : Prop where
  boundary : t.atBoundary = true
  par : t.par = s.par
  cfg : t.cfg = s.cfg
  tx : t.tx = s.tx
  rxAns : t.inp.rxAns = more
  deliveries : t.out.deliveries = s.out.deliveries ++ (fs.map (fun f => (f.verdict s.par s.cfg).deliveries)).flatten
  log : t.out.log = s.out.log ++ logOfFrames s.par s.cfg fs s.inp.inbAns

section
variable {s : State} {f : InFrame} {fs : List InFrame} {more : List RxAns} {a : InbAns} {as : List InbAns}

@[simp] theorem afterFrame_par (pbuf frag : Bytes) (bdst : Byte) :
    (afterFrame s f more a as pbuf frag bdst).par = s.par := by simp [afterFrame]

@[simp] theorem afterFrame_cfg (pbuf frag : Bytes) (bdst : Byte) :
    (afterFrame s f more a as pbuf frag bdst).cfg = s.cfg := by simp [afterFrame]

@[simp] theorem afterFrame_tx (pbuf frag : Bytes) (bdst : Byte) :
    (afterFrame s f more a as pbuf frag bdst).tx = s.tx := by simp [afterFrame]

@[simp] theorem afterFrame_deliveries (pbuf frag : Bytes) (bdst : Byte) :
    (afterFrame s f more a as pbuf frag bdst).out.deliveries =
      s.out.deliveries ++ (f.verdict s.par s.cfg).deliveries := by simp [afterFrame]

@[simp] theorem afterFrame_log (pbuf frag : Bytes) (bdst : Byte) :
    (afterFrame s f more a as pbuf frag bdst).out.log = s.out.log ++ (f.verdict s.par s.cfg).log a := by
  simp [afterFrame]

@[simp] theorem afterFrame_rxAns (pbuf frag : Bytes) (bdst : Byte) :
    (afterFrame s f more a as pbuf frag bdst).inp.rxAns = more := by simp [afterFrame]

@[simp] theorem afterFrame_inbAns (pbuf frag : Bytes) (bdst : Byte) :
    (afterFrame s f more a as pbuf frag bdst).inp.inbAns = (f.verdict s.par s.cfg).answersLeft (a :: as) := by
  simp [afterFrame]

/-- A frame before the others is handled first (R202). -/
theorem FramesHandled.cons {rest : List RxAns} {pbuf frag : Bytes} {bdst : Byte} {t : State}
    (hinb : s.inp.inbAns = a :: as) (h : FramesHandled fs more (afterFrame s f rest a as pbuf frag bdst) t) :
    FramesHandled (f :: fs) more s t where
  boundary := h.boundary
  par := by rw [h.par, afterFrame_par]
  cfg := by rw [h.cfg, afterFrame_cfg]
  tx := by rw [h.tx, afterFrame_tx]
  rxAns := h.rxAns
  deliveries := by simp [h.deliveries]
  log := by simp [h.log, logOfFrames, hinb]

/-- A verdict takes at most one of the engine's answers. -/
theorem length_le_answersLeft (v : Verdict) (a : InbAns) (as : List InbAns) :
    as.length ≤ (v.answersLeft (a :: as)).length := by
  cases v with
  | drop => exact Nat.le_succ _
  | accept => exact le_rfl

/-- Any number of whole frames, with an answer of the engine for each (R202, R206). -/
theorem turns_frames (hb : s.atBoundary = true) (hexact : ∀ f ∈ fs, f.exact) (hinb : fs.length ≤ s.inp.inbAns.length)
    (h : s.inp.rxAns = (fs.map (fun f => (f.bytes s.par).map RxAns.byte)).flatten ++ more) :
    ∃ t, Turns .rxp (fs.map (fun f => f.turns s.par s.cfg)).sum s t ∧ FramesHandled fs more s t := by
  induction fs generalizing s with
  | nil =>
    refine ⟨s, .refl, ⟨hb, rfl, rfl, rfl, h, ?_, ?_⟩⟩ <;> simp [logOfFrames]
  | cons f fs ih =>
    obtain ⟨run, -, -⟩ := atBoundary_iff.mp hb
    obtain ⟨hf, hfs⟩ := List.forall_mem_cons.mp hexact
    obtain ⟨a, as, hans⟩ := List.exists_cons_of_length_pos (Nat.lt_of_lt_of_le (Nat.succ_pos _) hinb)
    rw [List.map_cons, List.flatten_cons, List.append_assoc] at h
    obtain ⟨pbuf, frag, bdst, hfirst⟩ := turns_frame hb hf h hans
    rw [hans] at hinb
    obtain ⟨t, hrest, hhandled⟩ := ih (s := afterFrame s f _ a as pbuf frag bdst) (atBoundary_iff.mpr ⟨run, rfl, rfl⟩)
      hfs (by simpa using (Nat.le_of_succ_le_succ hinb).trans (length_le_answersLeft _ a as))
      (by rw [afterFrame_rxAns, afterFrame_par])
    rw [afterFrame_par, afterFrame_cfg] at hrest
    exact ⟨t, hfirst.trans hrest, hhandled.cons hans⟩

/-- The end of the stream at a frame boundary closes RXP clean (R191, R206). -/
theorem turn_cleanEof (hb : s.atBoundary = true) (h : s.inp.rxAns = .eos :: more) :
    Turns .rxp 1 s (stopRx .cleanEof (s.setInp { s.inp with rxAns := more })) := by
  obtain ⟨run, phase, cnt⟩ := atBoundary_iff.mp hb
  have hlt : s.rx.cnt.toNat < hdrW := by rw [cnt]; decide
  refine turn_atPhase (f := readHeaderByte) (fun _ => rfl) run phase fun script => ?_
  rw [readHeaderByte, readTurn_eos (s := s.withScript script) hlt h, hdrEosCause,
    if_pos (show (s.withScript script).rx.cnt = 0 from cnt)]
  rfl

end

end Sys2Proof.Machine
end

section
/-! SUPPORT. What a send wrote, read by the peer (41_outbound_framer.md R169). -/

namespace Sys2Proof.Machine

/-- The frame that carries a fragment to the peer, as one that comes in there (R162, R166). -/
def sentFrame (s : State) (f : Bytes) : InFrame :=
  { len := BitVec.ofNat 16 (busPacket f s).length, src := s.cfg.localAddr, dst := s.cfg.peerAddr
    payload := busPacket f s }

section
variable {s p : State} {f : Bytes}

theorem sentFrame_exact (h : fits f s) : (sentFrame s f).exact := (ofNat16_toNat h.2).symm

/-- A peer with the same constants reads the bytes that were written. -/
theorem sentFrame_bytes (hm : p.par.magic = s.par.magic) (hv : p.par.version = s.par.version) :
    (sentFrame s f).bytes p.par = frameFor f s := by
  rw [InFrame.bytes, frameFor, serialize, serialize, hm, hv]
  rfl

/-- A peer that is addressed and whose codec gives back the fragment delivers it (R205). -/
theorem sentFrame_verdict (haddr : p.cfg.localAddr = s.cfg.peerAddr)
    (hdec : p.par.busDecode p.cfg.pec (busPacket f s) = some { frag := f, bdst := s.cfg.peerAddr }) :
    (sentFrame s f).verdict p.par p.cfg = .accept f :=
  verdict_accept (f := sentFrame s f) (d := { frag := f, bdst := s.cfg.peerAddr }) haddr.symm hdec haddr.symm

theorem sentFrame_turns (h : (sentFrame s f).verdict p.par p.cfg = .accept f) :
    (sentFrame s f).turns p.par p.cfg = 11 + max 1 (busPacket f s).length := by
  rw [InFrame.turns_eq, h, Nat.add_right_comm]
  rfl

end

/-- A peer at a frame boundary that accepts every frame sent delivers the fragments in order, and closes clean at the
end of the stream (R169, R206). -/
theorem turns_sentFrames {s p : State} {fs : List Bytes} {more : List RxAns} (hfit : ∀ f ∈ fs, fits f s)
    (hb : p.atBoundary = true) (hbytes : ∀ f ∈ fs, (sentFrame s f).bytes p.par = frameFor f s)
    (hverdict : ∀ f ∈ fs, (sentFrame s f).verdict p.par p.cfg = .accept f) (hinb : fs.length ≤ p.inp.inbAns.length)
    (hrx : p.inp.rxAns = (fs.map (fun f => frameFor f s)).flatten.map RxAns.byte ++ .eos :: more) :
    ∃ q, Turns .rxp ((fs.map (fun f => 11 + max 1 (busPacket f s).length)).sum + 1) p q ∧ q.stoppedFor .cleanEof ∧
      q.out.deliveries = p.out.deliveries ++ fs ∧ q.inp.rxAns = more := by
  have hstream : (fs.map (fun f => frameFor f s)).flatten.map RxAns.byte =
      ((fs.map (sentFrame s)).map (fun f => (f.bytes p.par).map RxAns.byte)).flatten := by
    rw [List.map_flatten, List.map_map, List.map_map]
    exact congrArg _ (List.map_congr_left fun f hf => congrArg (List.map RxAns.byte) (hbytes f hf).symm)
  have hturns : (fs.map (sentFrame s)).map (fun f => f.turns p.par p.cfg) =
      fs.map (fun f => 11 + max 1 (busPacket f s).length) := by
    rw [List.map_map]
    exact List.map_congr_left fun f hf => sentFrame_turns (hverdict f hf)
  have hdelivered : (fs.map (sentFrame s)).map (fun f => (f.verdict p.par p.cfg).deliveries) =
      fs.map (fun f => [f]) := by
    rw [List.map_map]
    exact List.map_congr_left fun f hf => congrArg Verdict.deliveries (hverdict f hf)
  obtain ⟨q, hframes, hhandled⟩ := turns_frames hb (List.forall_mem_map.mpr fun f hf => sentFrame_exact (hfit f hf))
    (by rwa [List.length_map]) (hstream ▸ hrx)
  have hclose := hframes.trans (turn_cleanEof hhandled.boundary hhandled.rxAns)
  rw [hturns] at hclose
  refine ⟨_, hclose, ⟨rfl, rfl⟩, ?_, rfl⟩
  calc q.out.deliveries
    _ = p.out.deliveries ++ (fs.map (fun f => [f])).flatten := by rw [hhandled.deliveries, hdelivered]
    _ = p.out.deliveries ++ fs := by rw [← List.flatMap_def, List.flatMap_singleton']

/-- Settles O22: what the send wrote is whole frames for the peer, each of which it accepts. -/
theorem sentFragmentsReachThePeer : Obligations.SentFragmentsReachThePeer := by
  intro s bufs held fs tag script session starts frags writes idle hm hr hstart hfit hs ha hw
  obtain ⟨t, hrun, -, hwrites, hstream, hresult, -⟩ := sendWritesOneFramePerFragment s bufs held fs tag script session
    starts frags writes idle hm hr hstart hfit hs ha hw
  refine ⟨t, _, hrun, hresult, by simp [hwrites], hstream, ?_⟩
  intro p n more rest hb hmagic hversion haddr hdec hrx hinb hn hscript
  obtain ⟨q, hturns, hstopped, hdelivered, hleft⟩ := turns_sentFrames hfit hb
    (fun _ _ => sentFrame_bytes hmagic hversion) (fun f hf => sentFrame_verdict haddr (hdec f hf)) hinb hrx
  exact ⟨q.withScript rest, (hn ▸ hturns).run hscript, hstopped, hdelivered, hleft⟩

end Sys2Proof.Machine
end

section
/-! SUPPORT. What each operation of RXP answers in its phase, case by case (42_inbound_parser.md R191 to R197). -/

namespace Sys2Proof.Machine

/-- An operation in its phase answers what the phase's function makes of the state (R190). -/
theorem next_atPhase_of {s t : State} {p : RxPhase} {f : State → State} (run : s.rx.state = .running)
    (phase : s.rx.phase = p) (h : f s = t) :
    Host.Outcome.next (atPhase p f s) = (.next t : Host.Outcome State Fault Refusal) :=
  congrArg _ ((atPhase_of f run phase).trans h)

section
variable {s : State}

/-! ## The two reads -/

/-- After a byte below the count, `rx_cnt` and the phase say whether it was the last (R26). -/
theorem advanceRead_below {n : Nat} {next p : RxPhase} (hlt : s.rx.cnt.toNat < n) (phase : s.rx.phase = p) :
    advanceRead n next s = s.setRx { s.rx with
      phase := if s.rx.cnt.toNat + 1 = n then next else p
      cnt := if s.rx.cnt.toNat + 1 = n then 0 else s.rx.cnt + 1 } := by
  obtain ⟨hmore, he⟩ | ⟨hlast, he⟩ := advanceRead_cases n next s <;> rw [he]
  · rw [if_neg hmore.ne, if_neg hmore.ne, ← phase]
  · rw [if_pos (by omega), if_pos (by omega)]

/-- A read failure before the count is reached stops RXP (R56). -/
theorem readTurn_err {n : Nat} {next : RxPhase} {store : Byte → RxRegs → RxRegs} {short failed : RxCause}
    {more : List RxAns} (hlt : s.rx.cnt.toNat < n) (h : s.inp.rxAns = .err :: more) :
    readTurn n next store short failed s = stopRx failed (s.setInp { s.inp with rxAns := more }) := by
  simp [readTurn, readNext, h, popRx, Nat.not_le.mpr hlt]

/-- The end of the stream is clean only when no byte of a header was taken (R191). -/
theorem hdrEosCause_eq (s : State) : hdrEosCause s = if s.rx.cnt.toNat = 0 then .cleanEof else .hdrShort := by
  have hcnt : s.rx.cnt = 0 ↔ s.rx.cnt.toNat = 0 := BitVec.toNat_eq
  simp only [hdrEosCause, hcnt]

/-! ## The delivery -/

theorem deliverFragment_ok {more : List InbAns} (h : s.inp.inbAns = .ok :: more) :
    deliverFragment s = nextFrame (deliver s) := by
  simp [deliverFragment, h]

theorem deliverFragment_err {e : EngineError} {more : List InbAns} (h : s.inp.inbAns = .err e :: more) :
    deliverFragment s = nextFrame (logEvent (.engineErr e) (deliver s)) := by
  simp [deliverFragment, h]

theorem deliver_answered {a : InbAns} {more : List InbAns} (h : s.inp.inbAns = a :: more) :
    deliver s = (s.setInp { s.inp with inbAns := more }).setOut
      { s.out with deliveries := s.out.deliveries ++ [s.rx.frag] } := by
  simp [deliver, h]

end

/-! ## The operations -/

/-- Settles O26: the three answers of `RxByte` below the count. -/
theorem rxHdrTakesOneByte : Obligations.RxHdrTakesOneByte := by
  refine fun s more run phase hlt => ⟨fun x h => next_atPhase_of run phase ?_,
    fun h => next_atPhase_of run phase ?_, fun h => next_atPhase_of run phase (readTurn_err hlt h)⟩
  · exact (readTurn_byte hlt h).trans (advanceRead_below hlt phase)
  · rw [← hdrEosCause_eq]
    exact readTurn_eos hlt h

/-- Settles O28: at length 0 the count is reached at once; below the length, the three answers of `RxByte`. -/
theorem rxPayTakesOneByte : Obligations.RxPayTakesOneByte := by
  refine fun s more run phase => ⟨fun hlen => next_atPhase_of run phase (readTurn_full ?_), fun hlt =>
    ⟨fun x h => next_atPhase_of run phase ?_, fun h => next_atPhase_of run phase (readTurn_eos hlt h),
      fun h => next_atPhase_of run phase (readTurn_err hlt h)⟩⟩
  · rw [hlen]
    exact Nat.zero_le _
  · exact (readTurn_byte hlt h).trans (advanceRead_below hlt phase)

/-- Settles O27: the three classes of a header. -/
theorem rxChkParsesOrStops : Obligations.RxChkParsesOrStops :=
  fun _ run phase =>
    ⟨fun hm => next_atPhase_of run phase (checkHeader_err (parse_badMagic hm)),
      fun hm hv => next_atPhase_of run phase (checkHeader_err (parse_badVersion hm hv)),
      fun hm hv => next_atPhase_of run phase (checkHeader_ok (parse_legal hm hv))⟩

/-- Settles O29: the filter's two branches. -/
theorem rxFltDropsForeignFrames : Obligations.RxFltDropsForeignFrames :=
  fun _ run phase => ⟨fun mine => next_atPhase_of (f := filterFrame) run phase (if_neg (not_not.mpr mine)),
    fun foreign => next_atPhase_of (f := filterFrame) run phase (if_pos foreign)⟩

/-- Settles O30: the codec's two answers on the payload. -/
theorem rxDecDecodesThePayload : Obligations.RxDecDecodesThePayload :=
  fun _ run phase => ⟨fun _ hd => next_atPhase_of run phase (decodePayload_ok hd),
    fun hd => next_atPhase_of run phase (decodePayload_fail hd)⟩

/-- Settles O31: the re-check's two branches. -/
theorem rxRckDropsForeignPackets : Obligations.RxRckDropsForeignPackets :=
  fun _ run phase => ⟨fun mine => next_atPhase_of (f := recheckDest) run phase (if_neg (not_not.mpr mine)),
    fun foreign => next_atPhase_of (f := recheckDest) run phase (if_pos foreign)⟩

/-- Settles O32: the engine's two answers to the call. -/
theorem rxDlvDeliversOnce : Obligations.RxDlvDeliversOnce := by
  refine fun s more run phase => ⟨fun h => next_atPhase_of run phase ?_, fun e h => next_atPhase_of run phase ?_⟩
  · rw [deliverFragment_ok h, deliver_answered h]
    rfl
  · rw [deliverFragment_err h, deliver_answered h]
    rfl

end Sys2Proof.Machine
end

section
/-! SUPPORT. Whole frames on the inbound stream (42_inbound_parser.md R205, R206): each comes to its verdict, and the end
of the stream behind them is clean. -/

namespace Sys2Proof.Machine

/-- Settles O40: the turns of one whole frame, with what they leave read off. -/
theorem oneFrameComesToItsVerdict : Obligations.OneFrameComesToItsVerdict := by
  intro s f more a as script hb hexact h hinb hs
  obtain ⟨run, -, -⟩ := atBoundary_iff.mp hb
  obtain ⟨pbuf, frag, bdst, hturns⟩ := turns_frame hb hexact h hinb
  have htaken : s.out.inTaken + hdrW + f.payload.length = s.out.inTaken + 6 + f.len.toNat := congrArg _ hexact
  exact ⟨_, hturns.run hs, atBoundary_iff.mpr ⟨run, rfl, rfl⟩, rfl, htaken, rfl, rfl, rfl, rfl, rfl, rfl, rfl⟩

/-- Settles O41: the frames in a row, and the turn that meets the end of the stream. -/
theorem cleanCloseAfterWholeFrames : Obligations.CleanCloseAfterWholeFrames := by
  rintro s fs more hb hexact hinb h n script rfl hs
  obtain ⟨t, hframes, hhandled⟩ := turns_frames hb hexact hinb h
  have hclose := hframes.trans (turn_cleanEof hhandled.boundary hhandled.rxAns)
  exact ⟨_, hclose.run hs, ⟨rfl, rfl⟩, rfl, rfl, hhandled.deliveries, hhandled.log, hhandled.tx⟩

end Sys2Proof.Machine
end

section
/-! SUPPORT. A frame that breaks off (42_inbound_parser.md R191, R193, R206): the bytes that are there are read, and the
end of the stream behind them stops RXP. -/

namespace Sys2Proof.Machine

/-- From `s` to `t` RXP has taken `n` bytes of the read it is in and goes on with that read; `more` is left of the
inbound stream. -/
structure PartRead (n : Nat) (more : List RxAns) (s t : State) : Prop where
  state : t.rx.state = s.rx.state
  phase : t.rx.phase = s.rx.phase
  len : t.rx.len = s.rx.len
  cnt : t.rx.cnt.toNat = s.rx.cnt.toNat + n
  rxAns : t.inp.rxAns = more
  deliveries : t.out.deliveries = s.out.deliveries
  log : t.out.log = s.out.log

/-- How many bytes the read of phase `HDR` or `PAY` takes (R191, R193). -/
def RxRegs.readSize (r : RxRegs) : Nat := if r.phase = .hdr then hdrW else r.len.toNat

section
variable {s t u : State} {n m : Nat} {more rest : List RxAns}

theorem PartRead.refl (h : s.inp.rxAns = more) : PartRead 0 more s s := ⟨rfl, rfl, rfl, rfl, h, rfl, rfl⟩

theorem PartRead.trans (h : PartRead n rest s t) (k : PartRead m more t u) : PartRead (n + m) more s u where
  state := k.state.trans h.state
  phase := k.phase.trans h.phase
  len := k.len.trans h.len
  cnt := by rw [k.cnt, h.cnt, Nat.add_assoc]
  rxAns := k.rxAns
  deliveries := k.deliveries.trans h.deliveries
  log := k.log.trans h.log

theorem PartRead.readSize (h : PartRead n more s t) : t.rx.readSize = s.rx.readSize := by
  simp only [RxRegs.readSize, h.phase, h.len]

theorem readSize_hdr (phase : s.rx.phase = .hdr) : s.rx.readSize = hdrW := if_pos phase

theorem readSize_pay (phase : s.rx.phase = .pay) : s.rx.readSize = s.rx.len.toNat := by
  rw [RxRegs.readSize, phase, if_neg nofun]

theorem readSize_lt (s : State) : s.rx.readSize < 65536 := by
  unfold RxRegs.readSize
  split
  · decide
  · exact s.rx.len.isLt

/-- `s` after a header byte that is not the last (R191). -/
def afterHeaderByte (s : State) (b : Byte) (more : List RxAns) : State :=
  ((s.setInp { s.inp with rxAns := more }).setOut { s.out with inTaken := s.out.inTaken + 1 }).setRx
    { s.rx with hbuf := s.rx.hbuf.set s.rx.cnt.toNat b, cnt := s.rx.cnt + 1 }

theorem turn_headerByte {b : Byte} (run : s.rx.state = .running) (phase : s.rx.phase = .hdr)
    (h : s.inp.rxAns = .byte b :: more) (hlt : s.rx.cnt.toNat + 1 < hdrW) :
    Turns .rxp 1 s (afterHeaderByte s b more) :=
  turn_atPhase (f := readHeaderByte) (fun _ => rfl) run phase fun script =>
    (readTurn_byte (s := s.withScript script) (Nat.lt_of_succ_lt hlt) h).trans (if_pos hlt)

/-- A byte before the last of a header or a payload is taken, and the read goes on (R191, R193). -/
theorem turn_partRead {b : Byte} (run : s.rx.state = .running) (reads : s.rx.phase = .hdr ∨ s.rx.phase = .pay)
    (hlt : s.rx.cnt.toNat + 1 < s.rx.readSize) (h : s.inp.rxAns = .byte b :: more) :
    ∃ t, Turns .rxp 1 s t ∧ PartRead 1 more s t := by
  have hcnt := cnt_succ_toNat (hlt.trans (readSize_lt s))
  obtain phase | phase := reads
  · rw [readSize_hdr phase] at hlt
    exact ⟨afterHeaderByte s b more, turn_headerByte run phase h hlt, ⟨rfl, rfl, rfl, hcnt, rfl, rfl, rfl⟩⟩
  · rw [readSize_pay phase] at hlt
    exact ⟨afterByte s b more, turn_payloadByte run phase h hlt, ⟨rfl, rfl, rfl, hcnt, rfl, rfl, rfl⟩⟩

/-- So are any number of bytes that leave the read unfinished. -/
theorem turns_partRead (bs : Bytes) (run : s.rx.state = .running) (reads : s.rx.phase = .hdr ∨ s.rx.phase = .pay)
    (hlt : s.rx.cnt.toNat + bs.length < s.rx.readSize) (h : s.inp.rxAns = bs.map RxAns.byte ++ more) :
    ∃ t, Turns .rxp bs.length s t ∧ PartRead bs.length more s t := by
  induction bs generalizing s with
  | nil => exact ⟨s, .refl, .refl h⟩
  | cons b bs ih =>
    rw [List.length_cons] at hlt
    obtain ⟨t, hfirst, hpart⟩ := turn_partRead run reads (by omega) h
    obtain ⟨u, hrest, hparts⟩ := ih (s := t) (hpart.state.trans run) (hpart.phase ▸ reads)
      (by rw [hpart.cnt, hpart.readSize]; omega) hpart.rxAns
    rw [List.length_cons, Nat.add_comm]
    exact ⟨u, hfirst.trans hrest, hpart.trans hparts⟩

/-- The end of the stream inside a header (R191). -/
theorem turn_hdrShort (run : s.rx.state = .running) (phase : s.rx.phase = .hdr) (hpos : s.rx.cnt.toNat ≠ 0)
    (hlt : s.rx.cnt.toNat < hdrW) (h : s.inp.rxAns = .eos :: more) :
    Turns .rxp 1 s (stopRx .hdrShort (s.setInp { s.inp with rxAns := more })) := by
  refine turn_atPhase (f := readHeaderByte) (fun _ => rfl) run phase fun script => ?_
  rw [readHeaderByte, readTurn_eos (s := s.withScript script) hlt h, hdrEosCause_eq,
    if_neg (show (s.withScript script).rx.cnt.toNat ≠ 0 from hpos)]
  rfl

/-- The end of the stream before the payload is whole (R193). -/
theorem turn_payShort (run : s.rx.state = .running) (phase : s.rx.phase = .pay)
    (hlt : s.rx.cnt.toNat < s.rx.len.toNat) (h : s.inp.rxAns = .eos :: more) :
    Turns .rxp 1 s (stopRx .payShort (s.setInp { s.inp with rxAns := more })) :=
  turn_atPhase (f := readPayloadByte) (fun _ => rfl) run phase fun script =>
    readTurn_eos (s := s.withScript script) hlt h

end

/-- Settles O42: the bytes that are there, after the whole header if there is one, and the turn that meets the end. -/
theorem midFrameCloseIsFatal : Obligations.MidFrameCloseIsFatal := by
  intro s bs more script hb h
  obtain ⟨run, phase, cnt⟩ := atBoundary_iff.mp hb
  have hcnt : s.rx.cnt.toNat = 0 := by rw [cnt]; rfl
  refine ⟨fun hpos hle hs => ?_, fun len src dst pay hbs hshort hs => ?_⟩
  · have hlt : bs.length < hdrW := Nat.lt_succ_of_le hle
    obtain ⟨t, hturns, hpart⟩ := turns_partRead bs run (.inl phase)
      (by rwa [hcnt, Nat.zero_add, readSize_hdr phase]) h
    have hcnt' : t.rx.cnt.toNat = bs.length := by rw [hpart.cnt, hcnt, Nat.zero_add]
    have hstop := hturns.trans (turn_hdrShort (hpart.state.trans run) (hpart.phase.trans phase)
      (by omega) (hcnt' ▸ hlt) hpart.rxAns)
    exact ⟨_, hstop.run hs, ⟨rfl, rfl⟩, hcnt', hpart.deliveries, hpart.log⟩
  · subst hbs
    rw [List.map_append, List.append_assoc] at h
    obtain ⟨t, hturns, hpart⟩ := turns_partRead (s := afterHeader s len src dst (pay.map RxAns.byte ++ .eos :: more))
      pay run (.inr rfl) ((Nat.zero_add _).trans_lt hshort) rfl
    have hcnt' : t.rx.cnt.toNat = pay.length := hpart.cnt.trans (Nat.zero_add _)
    have hstop := ((turns_header hb h).trans hturns).trans (turn_payShort (hpart.state.trans run) hpart.phase
      (by rw [hcnt', hpart.len]; exact hshort) hpart.rxAns)
    have hcount : hdrW + 1 + pay.length + 1 = ((serialize s.par len src dst).toList ++ pay).length + 2 := by
      rw [List.length_append, Hdr6.toList_length, hdrW]; omega
    rw [hcount] at hstop
    exact ⟨_, hstop.run hs, ⟨rfl, rfl⟩, hcnt', hpart.deliveries, hpart.log⟩

end Sys2Proof.Machine
end

section
/-! SUPPORT. What a step is to RXP (42_inbound_parser.md R190, R198, R199): nothing, its own operation, a whole header, or
reset; and what follows of its stops and its deliveries. -/

namespace Sys2Proof.Machine

/-! ## The steps of RXP -/

/-- From `s` to `t` RXP takes no step: its registers, what it took, delivered and logged are as before, and of the inbound
stream at most more has arrived (R199). -/
structure RxpIdle (s t : State) : Prop where
  rx : t.rx = s.rx
  inTaken : t.out.inTaken = s.out.inTaken
  deliveries : t.out.deliveries = s.out.deliveries
  log : t.out.log = s.out.log
  arrived : s.inp.rxAns <+: t.inp.rxAns

theorem RxpIdle.refl (s : State) : RxpIdle s s := ⟨rfl, rfl, rfl, rfl, List.prefix_rfl⟩

theorem RxpIdle.trans {s t u : State} (h : RxpIdle s t) (k : RxpIdle t u) : RxpIdle s u :=
  ⟨k.rx.trans h.rx, k.inTaken.trans h.inTaken, k.deliveries.trans h.deliveries, k.log.trans h.log,
    h.arrived.trans k.arrived⟩

theorem popScript_rxpIdle (s : State) : RxpIdle s (popScript s) := ⟨rfl, rfl, rfl, rfl, List.prefix_rfl⟩

theorem setInp_sendReqs_rxpIdle (s : State) (reqs : List (List Bytes)) :
    RxpIdle s (s.setInp { s.inp with sendReqs := reqs }) := ⟨rfl, rfl, rfl, rfl, List.prefix_rfl⟩

theorem returnHdr_rxpIdle (r : HdrResult) (s : State) : RxpIdle s (returnHdr r s) :=
  ⟨rfl, rfl, rfl, rfl, List.prefix_rfl⟩

theorem TxKeeps.rxpIdle {s t : State} (h : TxKeeps s t) : RxpIdle s t :=
  ⟨h.rx, h.inTaken, h.deliveries, h.log, h.rxAns ▸ List.prefix_rfl⟩

theorem stimulate_rxpIdle {ev : Stimulus} (s : State) (hev : ev ≠ .rst) : RxpIdle s (stimulate ev s) := by
  cases ev with
  | rst => exact absurd rfl hev
  | rx a => exact ⟨rfl, rfl, rfl, rfl, List.prefix_append _ _⟩
  | _ => exact ⟨rfl, rfl, rfl, rfl, List.prefix_rfl⟩

/-- Everything a step can be to RXP. -/
inductive RxpStep (s t : State) : Prop where
  | idle (h : RxpIdle s t)
  | phase (run : s.rx.state = .running) (h : exec (phaseInstr s.rx.phase) (popScript s) = .next t)
  | header (hd : Hdr6) (rest : List RxAns) (boundary : s.atBoundary = true)
      (front : s.inp.rxAns = hd.toList.map RxAns.byte ++ rest)
      (h : t = receiveHeader hd (countTaken hdrW ((popScript s).setInp { (popScript s).inp with rxAns := rest })))
  | reset (head : s.inp.script.head? = some .rst) (h : t = resetBlock (popScript s))

/-- What a selected operation is to RXP. -/
theorem exec_selected_rxpStep {ev : Stimulus} {s v t : State} {i : Instr} (hf : fetch ev (popScript s) = some (i, v))
    (h : exec i v = .next t) : RxpStep s t := by
  obtain ⟨-, -, rfl, rfl⟩ | ⟨-, -, rfl, _, -, rfl⟩ | ⟨-, -, -, _, _, -, rfl, rfl⟩ | ⟨-, run, rfl, rfl⟩ |
    ⟨-, hb, hd, rest, front, rfl, rfl⟩ | ⟨c, -, rfl, rfl⟩ := fetch_cases hf
  · have keeps : TxKeeps (popScript s) t := by split at h <;> exact exec_txKeeps rfl h
    exact .idle ((popScript_rxpIdle s).trans keeps.rxpIdle)
  · exact .idle ((popScript_rxpIdle s).trans (exec_txKeeps rfl h).rxpIdle)
  · exact .idle (((popScript_rxpIdle s).trans (setInp_sendReqs_rxpIdle _ _)).trans (exec_txKeeps rfl h).rxpIdle)
  · exact .phase run h
  · exact .header hd rest hb front (Host.Outcome.next.inj (h.symm.trans (exec_decodeHeader hd _ _ rfl)))
  · rw [exec_hdrCall] at h
    cases h
    exact .idle ((popScript_rxpIdle s).trans (returnHdr_rxpIdle _ _))

theorem step_rxpStep {s t : State} (h : step s = .next t) : RxpStep s t := by
  obtain ⟨-, he⟩ | ⟨_, _, i, v, -, hf, he⟩ | ⟨ev, _, hs, -, he⟩ := step_cases s
  · cases Host.Outcome.next.inj (he.symm.trans h)
    exact .idle (.refl s)
  · exact exec_selected_rxpStep hf (he.symm.trans h)
  · cases Host.Outcome.next.inj (he.symm.trans h)
    by_cases hev : ev = .rst
    · subst hev
      exact .reset (by rw [hs]; rfl) rfl
    · exact .idle ((popScript_rxpIdle s).trans (stimulate_rxpIdle _ hev))

/-- Settles O38: of what a step can be to RXP, a stopped one and an entry that is no reset leave only the first. -/
theorem stoppedReceiverTakesNoStep : Obligations.StoppedReceiverTakesNoStep := by
  intro s t ev script stop hs hev h
  cases step_rxpStep h with
  | idle hidle => exact ⟨hidle.rx, hidle.inTaken, hidle.deliveries, hidle.log, hidle.arrived⟩
  | phase run => exact absurd (stop.symm.trans run) nofun
  | header _ _ hb => exact absurd (hb.symm.trans (atBoundary_stopped stop)) nofun
  | reset head =>
    rw [hs] at head
    exact absurd (Option.some.inj head) hev

/-- RXP's own operation is the function of its phase. -/
theorem exec_phaseInstr_eq {s t : State} {p : RxPhase} {f : State → State}
    (hexec : ∀ u, exec (phaseInstr p) u = .next (atPhase p f u)) (run : s.rx.state = .running) (phase : s.rx.phase = p)
    (h : exec (phaseInstr s.rx.phase) (popScript s) = .next t) : t = f (popScript s) := by
  rw [phase, hexec, atPhase_of (s := popScript s) f run phase] at h
  exact (Host.Outcome.next.inj h).symm

/-! ## The stops -/

/-- A read that leaves `RUNNING` met the end or a failure of the stream (R56, R232). -/
theorem readTurn_stops {n : Nat} {next : RxPhase} {store : Byte → RxRegs → RxRegs} {short failed : RxCause} {s : State}
    (run : s.rx.state = .running) (hstore : ∀ b, (store b s.rx).state = s.rx.state)
    (stop : (readTurn n next store short failed s).rx.state = .stopped) :
    s.stoppedAs (readTurn n next store short failed s) short ∨
      s.stoppedAs (readTurn n next store short failed s) failed := by
  obtain ⟨-, he⟩ | ⟨-, -, he⟩ | ⟨b, more, -, -, he⟩ | ⟨more, -, -, he⟩ | ⟨more, -, -, he⟩ :=
    readTurn_cases n next store short failed s <;> rw [he] at stop ⊢
  · exact absurd (run.symm.trans stop) nofun
  · exact absurd (run.symm.trans stop) nofun
  · have hrun := (hstore b).trans run
    obtain ⟨-, ha⟩ | ⟨-, ha⟩ := advanceRead_cases n next _ <;> rw [ha] at stop
    all_goals exact absurd (hrun.symm.trans stop) nofun
  · exact .inl rfl
  · exact .inr rfl

/-- The check leaves `RUNNING` for the error that `parse` gives (R192). -/
theorem checkHeader_stops {s : State} (run : s.rx.state = .running) (stop : (checkHeader s).rx.state = .stopped) :
    s.stoppedAs (checkHeader s) .badMagic ∧ s.rx.hbuf.b0 ≠ s.par.magic ∨
      s.stoppedAs (checkHeader s) .badVersion ∧ s.rx.hbuf.b0 = s.par.magic ∧ s.rx.hbuf.b1 ≠ s.par.version := by
  obtain hm | ⟨hm, hv⟩ | ⟨hm, hv⟩ := header_classes s.par s.rx.hbuf
  · exact .inl ⟨by rw [checkHeader_err (parse_badMagic hm)]; rfl, hm⟩
  · exact .inr ⟨by rw [checkHeader_err (parse_badVersion hm hv)]; rfl, hm, hv⟩
  · rw [checkHeader_ok (parse_legal hm hv)] at stop
    exact absurd (run.symm.trans stop) nofun

theorem filterFrame_state (s : State) : (filterFrame s).rx.state = s.rx.state := by
  unfold filterFrame
  split <;> rfl

theorem decodePayload_state (s : State) : (decodePayload s).rx.state = s.rx.state := by
  unfold decodePayload
  split <;> rfl

theorem recheckDest_state (s : State) : (recheckDest s).rx.state = s.rx.state := by
  unfold recheckDest
  split <;> rfl

theorem deliverFragment_state (s : State) : (deliverFragment s).rx.state = s.rx.state := by
  unfold deliverFragment
  split <;> rfl

theorem hdrEosCause_cases (s : State) :
    hdrEosCause s = .cleanEof ∧ s.rx.cnt.toNat = 0 ∨ hdrEosCause s = .hdrShort ∧ s.rx.cnt.toNat ≠ 0 := by
  rw [hdrEosCause_eq]
  split
  · exact .inl ⟨rfl, ‹_›⟩
  · exact .inr ⟨rfl, ‹_›⟩

/-- The causes with which the operation of RXP's phase stops it (R198). -/
theorem phase_stops {s t : State} (run : s.rx.state = .running)
    (h : exec (phaseInstr s.rx.phase) (popScript s) = .next t) (stop : t.rx.state = .stopped) :
    (s.rx.phase = .hdr ∧ (s.stoppedAs t .cleanEof ∧ s.rx.cnt.toNat = 0 ∨ s.stoppedAs t .hdrShort ∧ s.rx.cnt.toNat ≠ 0 ∨
      s.stoppedAs t .hdrReadErr)) ∨
    (s.rx.phase = .chk ∧ (s.stoppedAs t .badMagic ∧ s.rx.hbuf.b0 ≠ s.par.magic ∨
      s.stoppedAs t .badVersion ∧ s.rx.hbuf.b0 = s.par.magic ∧ s.rx.hbuf.b1 ≠ s.par.version)) ∨
    (s.rx.phase = .pay ∧ (s.stoppedAs t .payShort ∨ s.stoppedAs t .payReadErr)) := by
  have keeps_running {f : State → State} (hf : (f (popScript s)).rx.state = s.rx.state) : t ≠ f (popScript s) := by
    rintro rfl
    exact absurd (run.symm.trans (hf.symm.trans stop)) nofun
  cases phase : s.rx.phase with
  | hdr =>
    obtain rfl := exec_phaseInstr_eq (f := readHeaderByte) (fun _ => rfl) run phase h
    refine .inl ⟨rfl, ?_⟩
    obtain hshort | hfailed := readTurn_stops (s := popScript s) run (fun _ => rfl) stop
    · obtain ⟨hc, hcnt⟩ | ⟨hc, hcnt⟩ := hdrEosCause_cases (popScript s)
      · exact .inl ⟨hshort.trans (by rw [hc]; rfl), hcnt⟩
      · exact .inr (.inl ⟨hshort.trans (by rw [hc]; rfl), hcnt⟩)
    · exact .inr (.inr hfailed)
  | chk =>
    obtain rfl := exec_phaseInstr_eq (f := checkHeader) (fun _ => rfl) run phase h
    exact .inr (.inl ⟨rfl, checkHeader_stops (s := popScript s) run stop⟩)
  | pay =>
    obtain rfl := exec_phaseInstr_eq (f := readPayloadByte) (fun _ => rfl) run phase h
    exact .inr (.inr ⟨rfl, readTurn_stops (s := popScript s) run (fun _ => rfl) stop⟩)
  | flt => exact absurd (exec_phaseInstr_eq (fun _ => rfl) run phase h) (keeps_running (filterFrame_state _))
  | dec => exact absurd (exec_phaseInstr_eq (fun _ => rfl) run phase h) (keeps_running (decodePayload_state _))
  | rck => exact absurd (exec_phaseInstr_eq (fun _ => rfl) run phase h) (keeps_running (recheckDest_state _))
  | dlv => exact absurd (exec_phaseInstr_eq (fun _ => rfl) run phase h) (keeps_running (deliverFragment_state _))

/-- A header received whole stops RXP as the check of it does (R192). -/
theorem receiveHeader_stops {hd : Hdr6} {s : State} (hb : s.atBoundary = true)
    (stop : (receiveHeader hd s).rx.state = .stopped) :
    (receiveHeader hd s).rx =
      { s.rx with hbuf := hd, phase := .chk, state := .stopped, cause := (receiveHeader hd s).rx.cause } ∧
    ((receiveHeader hd s).rx.cause = .badMagic ∧ hd.b0 ≠ s.par.magic ∨
      (receiveHeader hd s).rx.cause = .badVersion ∧ hd.b0 = s.par.magic ∧ hd.b1 ≠ s.par.version) := by
  obtain ⟨run, -, -⟩ := atBoundary_iff.mp hb
  obtain hm | ⟨hm, hv⟩ | ⟨hm, hv⟩ := header_classes s.par hd
  · rw [receiveHeader_err hb (parse_badMagic hm)]
    exact ⟨rfl, .inl ⟨rfl, hm⟩⟩
  · rw [receiveHeader_err hb (parse_badVersion hm hv)]
    exact ⟨rfl, .inr ⟨rfl, hm, hv⟩⟩
  · rw [receiveHeader_ok hb (parse_legal hm hv)] at stop
    exact absurd (run.symm.trans stop) nofun

/-- Settles O39: of what a step can be to RXP, its own operation and a whole header can stop it. -/
theorem receiverStopsOnlyForListedCauses : Obligations.ReceiverStopsOnlyForListedCauses := by
  intro s t h run stop
  cases step_rxpStep h with
  | idle hidle =>
    rw [hidle.rx] at stop
    exact absurd (run.symm.trans stop) nofun
  | phase _ hexec =>
    obtain hhdr | hchk | hpay := phase_stops run hexec stop
    · exact .inl hhdr
    · exact .inr (.inl hchk)
    · exact .inr (.inr (.inl hpay))
  | header hd rest hb front ht =>
    subst ht
    exact .inr (.inr (.inr ⟨hb, hd, ⟨rest, front.symm⟩, receiveHeader_stops hb stop⟩))
  | reset _ ht =>
    subst ht
    exact absurd stop nofun

/-! ## The deliveries -/

theorem readTurn_deliveries (n : Nat) (next : RxPhase) (store : Byte → RxRegs → RxRegs) (short failed : RxCause)
    (s : State) : (readTurn n next store short failed s).out.deliveries = s.out.deliveries := by
  obtain ⟨-, he⟩ | ⟨-, -, he⟩ | ⟨b, more, -, -, he⟩ | ⟨more, -, -, he⟩ | ⟨more, -, -, he⟩ :=
    readTurn_cases n next store short failed s <;> rw [he]
  case inr.inr.inl => obtain ⟨-, ha⟩ | ⟨-, ha⟩ := advanceRead_cases n next _ <;> rw [ha] <;> rfl
  all_goals rfl

theorem checkHeader_deliveries (s : State) : (checkHeader s).out.deliveries = s.out.deliveries := by
  unfold checkHeader
  split <;> rfl

theorem filterFrame_deliveries (s : State) : (filterFrame s).out.deliveries = s.out.deliveries := by
  unfold filterFrame
  split <;> rfl

theorem decodePayload_deliveries (s : State) : (decodePayload s).out.deliveries = s.out.deliveries := by
  unfold decodePayload
  split <;> rfl

theorem recheckDest_deliveries (s : State) : (recheckDest s).out.deliveries = s.out.deliveries := by
  unfold recheckDest
  split <;> rfl

theorem receiveHeader_deliveries (hd : Hdr6) (s : State) :
    (receiveHeader hd s).out.deliveries = s.out.deliveries := by
  unfold receiveHeader
  split
  · exact checkHeader_deliveries _
  · rfl

/-- `RX.DLV` delivers once if the engine answers, and not at all if it does not (R197). -/
theorem deliverFragment_deliveries (s : State) :
    (deliverFragment s).out.deliveries = s.out.deliveries ∨
      (deliverFragment s).out.deliveries = s.out.deliveries ++ [s.rx.frag] := by
  unfold deliverFragment
  split
  · exact .inl rfl
  all_goals exact .inr rfl

/-- Of the operations of RXP's phases only `RX.DLV` delivers, and it delivers `rx_frag` (R197, R205). -/
theorem phase_delivers {s t : State} (run : s.rx.state = .running)
    (h : exec (phaseInstr s.rx.phase) (popScript s) = .next t) :
    t.out.deliveries = s.out.deliveries ∨
      s.rx.phase = .dlv ∧ t.out.deliveries = s.out.deliveries ++ [s.rx.frag] := by
  have silent {p : RxPhase} {f : State → State} (hexec : ∀ u, exec (phaseInstr p) u = .next (atPhase p f u))
      (phase : s.rx.phase = p) (hf : ∀ u, (f u).out.deliveries = u.out.deliveries) :
      t.out.deliveries = s.out.deliveries := by
    rw [exec_phaseInstr_eq hexec run phase h, hf]
    rfl
  cases phase : s.rx.phase with
  | hdr => exact .inl (silent (fun _ => rfl) phase fun _ => readTurn_deliveries ..)
  | chk => exact .inl (silent (fun _ => rfl) phase checkHeader_deliveries)
  | pay => exact .inl (silent (fun _ => rfl) phase fun _ => readTurn_deliveries ..)
  | flt => exact .inl (silent (fun _ => rfl) phase filterFrame_deliveries)
  | dec => exact .inl (silent (fun _ => rfl) phase decodePayload_deliveries)
  | rck => exact .inl (silent (fun _ => rfl) phase recheckDest_deliveries)
  | dlv =>
    obtain rfl := exec_phaseInstr_eq (fun _ => rfl) run phase h
    exact (deliverFragment_deliveries (popScript s)).imp_right fun hd => ⟨rfl, hd⟩

/-- Settles O43: only `RX.DLV` delivers, and the invariant says what holds in its phase. -/
theorem deliveredFramesPassedEveryCheck : Obligations.DeliveredFramesPassedEveryCheck := by
  intro s t hs h
  cases step_rxpStep h with
  | idle hidle => exact .inl hidle.deliveries
  | phase run hexec =>
    refine (phase_delivers run hexec).imp_right fun ⟨phase, hdelivered⟩ => ?_
    have rank : s.rx.phase.rank = 6 := by rw [phase]; rfl
    have decoded := hs.rx.decoded run (by omega)
    rw [hs.rx.inner run (by omega)] at decoded
    exact ⟨hdelivered, hs.rx.legal run (by omega), hs.rx.mine run (by omega), hs.rx.fullBuf run (by omega), decoded⟩
  | header hd rest _ _ ht =>
    subst ht
    exact .inl (receiveHeader_deliveries hd _)
  | reset _ ht =>
    subst ht
    exact .inl rfl

end Sys2Proof.Machine
end

section
/-! SUPPORT. RXP looks at neither the peer address nor the header's `source_addr` (42_inbound_parser.md R200): each of its
functions comes to the same with the two blotted out beforehand. -/

namespace Sys2Proof.Machine

/-- Blotting out the peer address and the source before `f` makes no difference that is seen after it (R200). -/
def IgnoresPeerAndSource (f : State → State) : Prop := ∀ s, blindRx (f (blindRx s)) = blindRx (f s)

theorem IgnoresPeerAndSource.congr {f : State → State} (hf : IgnoresPeerAndSource f) {s s' : State}
    (h : blindRx s = blindRx s') : blindRx (f s) = blindRx (f s') := by
  rw [← hf s, h, hf s']

/-! ## What `blindRx` leaves in sight -/

section
variable (s : State)

@[simp] theorem blindRx_par : (blindRx s).par = s.par := rfl
@[simp] theorem blindRx_pec : (blindRx s).cfg.pec = s.cfg.pec := rfl
@[simp] theorem blindRx_inp : (blindRx s).inp = s.inp := rfl
@[simp] theorem blindRx_payload : (blindRx s).rx.payload = s.rx.payload := rfl
@[simp] theorem blindRx_readNext (n : Nat) : readNext n (blindRx s) = readNext n s := rfl

end

/-- A branch on something in sight goes the same way. -/
theorem blindRx_ite {c c' : Prop} [Decidable c] [Decidable c'] {a a' b b' : State} (hc : c ↔ c')
    (ha : blindRx a = blindRx a') (hb : blindRx b = blindRx b') :
    blindRx (if c then a else b) = blindRx (if c' then a' else b') := by
  rw [apply_ite blindRx, apply_ite blindRx, ha, hb]
  exact if_congr hc rfl rfl

/-- With byte 4 blotted out at the end, it does not matter that it was before another byte was written. -/
theorem Hdr6.set_four_set_set_four (h : Hdr6) (k : Nat) (y : Byte) :
    ((h.set 4 0).set k y).set 4 0 = (h.set k y).set 4 0 := by
  obtain ⟨z, hz⟩ := h.set_four_set 0 y k
  rw [hz]
  rfl

/-! ## The functions of RXP -/

theorem advanceRead_ignores (n : Nat) (next : RxPhase) : IgnoresPeerAndSource (advanceRead n next) :=
  fun _ => blindRx_ite .rfl rfl rfl

/-- A turn of a read looks at the count and the stream; a byte it takes is stored next to what is blotted out. -/
theorem readTurn_blindRx {n : Nat} {next : RxPhase} {store : Byte → RxRegs → RxRegs} {short failed : RxCause} {s : State}
    (hstore : ∀ b, blindRx (s.setRx (store b (blindRx s).rx)) = blindRx (s.setRx (store b s.rx))) :
    blindRx (readTurn n next store short failed (blindRx s)) = blindRx (readTurn n next store short failed s) := by
  simp only [readTurn, blindRx_readNext]
  split
  case h_3 b _ =>
    exact (advanceRead_ignores n next).congr (congrArg (fun u => countTaken 1 (popRx u)) (hstore b))
  all_goals rfl

theorem readHeaderByte_ignores : IgnoresPeerAndSource readHeaderByte := by
  refine fun s => readTurn_blindRx (s := s) fun b => ?_
  have hset := Hdr6.set_four_set_set_four s.rx.hbuf s.rx.cnt.toNat b
  simp only [blindRx, State.setRx, State.setCfg, hset]

theorem readPayloadByte_ignores : IgnoresPeerAndSource readPayloadByte :=
  fun s => readTurn_blindRx (s := s) fun _ => rfl

/-- `parse` tests the first two bytes alone, and what it gives of byte 4 goes to `rx_src` (R141, R192). -/
theorem checkHeader_ignores : IgnoresPeerAndSource checkHeader := by
  intro s
  obtain hm | ⟨hm, hv⟩ | ⟨hm, hv⟩ := header_classes s.par s.rx.hbuf
  · rw [checkHeader_err (parse_badMagic hm), checkHeader_err (s := blindRx s) (parse_badMagic hm)]
    rfl
  · rw [checkHeader_err (parse_badVersion hm hv), checkHeader_err (s := blindRx s) (parse_badVersion hm hv)]
    rfl
  · rw [checkHeader_ok (parse_legal hm hv), checkHeader_ok (s := blindRx s) (parse_legal hm hv)]
    rfl

theorem filterFrame_ignores : IgnoresPeerAndSource filterFrame := fun _ => blindRx_ite .rfl rfl rfl

theorem decodePayload_ignores : IgnoresPeerAndSource decodePayload := by
  intro s
  simp only [decodePayload, blindRx_par, blindRx_pec, blindRx_payload]
  split <;> rfl

theorem recheckDest_ignores : IgnoresPeerAndSource recheckDest := fun _ => blindRx_ite .rfl rfl rfl

theorem deliverFragment_ignores : IgnoresPeerAndSource deliverFragment := by
  intro s
  simp only [deliverFragment, blindRx_inp]
  split <;> rfl

theorem atPhase_ignores (p : RxPhase) {f : State → State} (hf : IgnoresPeerAndSource f) :
    IgnoresPeerAndSource (atPhase p f) :=
  fun s => blindRx_ite .rfl (hf s) rfl

/-- A header received whole may have its source blotted out too. -/
theorem receiveHeader_blindRx (hd : Hdr6) (s : State) :
    blindRx (receiveHeader (hd.set 4 0) (blindRx s)) = blindRx (receiveHeader hd s) :=
  blindRx_ite .rfl (checkHeader_ignores (s.setRx { s.rx with hbuf := hd, phase := .chk, cnt := 0 })) rfl

section
variable {s s' : State}

theorem receiveHeader_congr {hd hd' : Hdr6} (h : blindRx s = blindRx s') (hhd : hd.set 4 0 = hd'.set 4 0) :
    blindRx (receiveHeader hd s) = blindRx (receiveHeader hd' s') := by
  rw [← receiveHeader_blindRx hd s, h, hhd, receiveHeader_blindRx hd' s']

/-! ## The operations of RXP -/

theorem par_of_blindRx_eq (h : blindRx s = blindRx s') : s.par = s'.par :=
  congrArg State.par (a₁ := blindRx s) (a₂ := blindRx s') h

theorem execFrame_ignores (h : blindRx s = blindRx s') (len : Len) (src src' dst : Byte) :
    ∃ t t', exec (.frame len src dst) s = .next t ∧ exec (.frame len src' dst) s' = .next t' ∧
      blindRx t = blindRx t' := by
  have hpar := par_of_blindRx_eq h
  have hhd : (serialize s.par len src dst).set 4 0 = (serialize s'.par len src' dst).set 4 0 := by rw [hpar]; rfl
  exact ⟨_, _, rfl, rfl, receiveHeader_congr h hhd⟩

theorem execFrameBadMagic_ignores (h : blindRx s = blindRx s') (m v : Byte) (len : Len) (src src' dst : Byte) :
    ∃ t t', exec (.frameBadMagic m v len src dst) s = .next t ∧ exec (.frameBadMagic m v len src' dst) s' = .next t' ∧
      blindRx t = blindRx t' :=
  ⟨_, _, rfl, rfl, receiveHeader_congr h rfl⟩

theorem execFrameBadVersion_ignores (h : blindRx s = blindRx s') (v : Byte) (len : Len) (src src' dst : Byte) :
    ∃ t t', exec (.frameBadVersion v len src dst) s = .next t ∧ exec (.frameBadVersion v len src' dst) s' = .next t' ∧
      blindRx t = blindRx t' := by
  have hpar := par_of_blindRx_eq h
  have hhd : (Hdr6.ofFields s.par.magic v len src dst).set 4 0 =
      (Hdr6.ofFields s'.par.magic v len src' dst).set 4 0 := by rw [hpar]; rfl
  exact ⟨_, _, rfl, rfl, receiveHeader_congr h hhd⟩

/-- From two states that differ in what RXP ignores, each of its operations goes on to two such states. -/
theorem exec_rxOp_ignores {i : Instr} (hi : isRxOp i = true) (h : blindRx s = blindRx s') :
    ∃ t t', exec i s = .next t ∧ exec i s' = .next t' ∧ blindRx t = blindRx t' := by
  have phase {p : RxPhase} {f : State → State} (hf : IgnoresPeerAndSource f) :
      blindRx (atPhase p f s) = blindRx (atPhase p f s') := (atPhase_ignores p hf).congr h
  cases i with
  | rxHdr => exact ⟨_, _, rfl, rfl, phase readHeaderByte_ignores⟩
  | rxChk => exact ⟨_, _, rfl, rfl, phase checkHeader_ignores⟩
  | rxPay => exact ⟨_, _, rfl, rfl, phase readPayloadByte_ignores⟩
  | rxFlt => exact ⟨_, _, rfl, rfl, phase filterFrame_ignores⟩
  | rxDec => exact ⟨_, _, rfl, rfl, phase decodePayload_ignores⟩
  | rxRck => exact ⟨_, _, rfl, rfl, phase recheckDest_ignores⟩
  | rxDlv => exact ⟨_, _, rfl, rfl, phase deliverFragment_ignores⟩
  | frame len src dst => exact execFrame_ignores h len src src dst
  | frameBadMagic m v len src dst => exact execFrameBadMagic_ignores h m v len src src dst
  | frameBadVersion v len src dst => exact execFrameBadVersion_ignores h v len src src dst
  | _ => cases hi

end

/-- Settles O37: each operation on its own, and the wire rows with two sources. -/
theorem receiverIgnoresPeerAndSource : Obligations.ReceiverIgnoresPeerAndSource := by
  refine fun s s' h => ⟨fun i t hi ht => ?_, fun m v len src src' dst => ⟨execFrame_ignores h len src src' dst,
    execFrameBadMagic_ignores h m v len src src' dst, execFrameBadVersion_ignores h v len src src' dst⟩⟩
  obtain ⟨u, t', hu, ht', hblind⟩ := exec_rxOp_ignores hi h
  cases Host.Outcome.next.inj (hu.symm.trans ht)
  exact ⟨t', ht', hblind⟩

end Sys2Proof.Machine
end

section
/-! SUPPORT. The codes of causes, events, results and phases (60_exceptions.md R231, 30_encoding.md R117). -/

namespace Sys2Proof.Machine

/-- The converse of `ofOpNumber_phase` (R117). -/
theorem opNumber_phaseInstr (ph : RxPhase) : opNumber (phaseInstr ph) = some (7 + ph.code.toNat) := by
  cases ph <;> rfl

/-- Settles O10: the listed causes, events and results have their codes by evaluation, a phase by its operation. -/
theorem statusCodes : Obligations.StatusCodes := by
  refine ⟨?causes, fun e => ?events, fun t e => ?results, opNumber_phaseInstr⟩
  case causes => decide
  case events => rfl
  case results => rfl

end Sys2Proof.Machine
end
